-- ==== Sys2Proof/Word.lean ====
section
/-!
DEFINITION. The value types of the block: bytes, 32-bit values and the fixed-size byte buffers (00_scope R12, R14).
-/

namespace Sys2Proof

/-- A byte, "8 bits, an unsigned value 0 to 255" (R12). -/
abbrev Byte := BitVec 8

/-- A 32-bit unsigned value: a checksum, the CRC register (R14). -/
abbrev Word := BitVec 32

/-- A 4-byte buffer, index order: `magic`, the checksum field, a key-schedule word (R14, R131). -/
abbrev Quad := Vector Byte 4

/-- A 16-byte buffer, index order: a frame, a ciphertext, an AES state, the IV, `req.data`, `rsp.out` (R14, R40). -/
abbrev Block := Vector Byte 16

end Sys2Proof
end

