-- ==== Sys2Proof/Config.lean ====
section
/-!
DEFINITION. The configuration of a block: the OPEN parameters of 00_scope R9, the hard-wired read-only values of 10_state R29.
The fixed rows of R9 (frame size, CRC constants, AES sizes) stand beside the functions that use them, under Machine/.
-/

namespace Sys2Proof

/-- `CRC_ORDER`, the byte order of the checksum field (20_memory R42, D7). -/
inductive CrcOrder where
  | le
  | be
  deriving DecidableEq, Repr, Inhabited

/-- The OPEN parameters of R9. `KEY_LEN` is the length of `key`, which may be any: a key that is not 32 bytes long is
malformed key material (42_confidentiality R136, D10). -/
structure Config where
  magic    : Quad
  version  : Byte
  key      : List Byte
  iv       : Block
  crcOrder : CrcOrder
  deriving DecidableEq, Repr, Inhabited

/-- The configuration of the block that comes out of reset. The spec gives these constants no value (R9, N2 to N6), so this
has none that Lean can see: whatever is proved of it holds for every configuration (DESIGN CHOICE, log 1, log 7). -/
opaque Config.deployed : Config

end Sys2Proof
end

