-- ==== Sys2Proof/Syntax.lean ====
section
/-!
DEFINITION. What is written to and read from the block: the commands, the request record, the words of the opcode table's two
formats, and the instructions, one constructor per row of spec/opcode_table.json.
-/

namespace Sys2Proof

/-- The command enumeration, "a closed enumeration" of six values (30_encoding R64, R10). -/
inductive Command where
  | stop
  | forward
  | backward
  | left
  | right
  | setSpeed
  deriving DecidableEq, Repr

/-- The request record of seven fields (30_encoding R68). -/
structure Request where
  op    : BitVec 3
  len   : Byte
  cmd   : Byte
  left  : Byte
  right : Byte
  seq   : Byte
  data  : Block
  deriving DecidableEq, Repr

/-- A word of one of the opcode table's two formats (30_encoding R68): REQ, the flat request vector `REQ[170:0]`, which is what the
block's port takes; and CMD8, the command byte at frame offset 5, which is no request (60_exceptions R174; log 3). -/
inductive TableWord where
  | request (req : BitVec 171)
  | commandByte (b : Byte)
  deriving DecidableEq, Repr

/-- The instructions. Each of the eight operations carries the request fields it uses and no other (30_encoding R68, R70,
R71). A row of format CMD8 is no operation (60_exceptions R174): it stands for the command byte itself; the six rows of unknown
values carry it. -/
inductive Instr where
  | crc32 (len : Byte) (data : Block)
  | build (cmd left right seq : Byte)
  | parse (len : Byte) (data : Block)
  | encrypt (len : Byte) (data : Block)
  | decrypt (len : Byte) (data : Block)
  | tx (cmd left right seq : Byte)
  | rx (len : Byte) (data : Block)
  | send (cmd left right : Byte)
  | cmdStop
  | cmdForward
  | cmdBackward
  | cmdLeft
  | cmdRight
  | cmdSetSpeed
  | cmdUnknown6To7 (b : Byte)
  | cmdUnknown8To15 (b : Byte)
  | cmdUnknown16To31 (b : Byte)
  | cmdUnknown32To63 (b : Byte)
  | cmdUnknown64To127 (b : Byte)
  | cmdUnknown128To255 (b : Byte)
  deriving DecidableEq, Repr

end Sys2Proof
end

