-- ==== Sys2Proof/Machine/State.lean ====
section
/-!
DEFINITION. The response record, the machine's state as plain data, the reasons a step can stop, and reset.
-/

namespace Sys2Proof.Machine

/-- The outcome of an operation (30_encoding R72). Status code 3 "is never produced", so it has no constructor. -/
inductive Status where
  | ok
  | reject
  | cipherFail
  deriving DecidableEq, Repr

/-- The diagnostic cause, "not part of the contract upward" (30_encoding R73). `cipherOp` is reserved and never produced
(42_confidentiality R139); code 7 "is never produced" and has no constructor. -/
inductive Diag where
  | none
  | size
  | magic
  | version
  | checksum
  | keySetup
  | cipherOp
  deriving DecidableEq, Repr

/-- The response record (30_encoding R69). A field that is not valid carries no value and is absent (60_exceptions R166). -/
structure Response where
  status : Status
  diag   : Diag
  crc    : Option Word := Option.none
  cmd    : Option Command := Option.none
  left   : Option Byte := Option.none
  right  : Option Byte := Option.none
  seq    : Option Byte := Option.none
  rsv    : Option (Vector Byte 3) := Option.none
  out    : Option Block := Option.none
  deriving DecidableEq, Repr

/-- The response as it stands on pins, each field at its width (30_encoding R69, 60_exceptions R166). -/
structure ResponsePins where
  status : BitVec 2
  diag   : BitVec 3
  crc    : BitVec 32
  cmd    : BitVec 8
  left   : BitVec 8
  right  : BitVec 8
  seq    : BitVec 8
  rsv    : BitVec 24
  out    : BitVec 128
  deriving DecidableEq, Repr

/-- What the frame codec does with a command byte: the byte it writes on build (41_frame_codec R103) and the command it delivers on
parse (R106). -/
structure CommandEntry where
  written : Byte
  decoded : Command
  deriving DecidableEq, Repr

/-- What an instruction gives: an operation its response (R69), a command-byte row the codec's entry for the byte (log 3). -/
inductive Output where
  | response (r : Response)
  | command (e : CommandEntry)
  deriving DecidableEq, Repr

/-- What the requester can do to the block: give it a request, or reset it (70_reset R186). Reset is "the only other thing that can
happen to the block" beside the eight operations (60_exceptions R174). -/
inductive PortInput where
  | request (req : BitVec 171)
  | reset
  deriving DecidableEq, Repr

/-- The machine's state. `seq` is the sequence counter `SEQ`, the block's only register (10_state R20). `cfg` is the
configuration, which nothing writes (R9, R29; log 1). `port` is what the requester has still to give, next one first, and
`responses` what the block has answered, oldest first (70_reset R186; log 2). `commandBytes` are command bytes looked up in the
codec's command map, next one first, and `commandEntries` what was found, oldest first: no part of the block's port (log 3). -/
structure State where
  cfg            : Config
  seq            : Byte
  port           : List PortInput
  responses      : List Response
  commandBytes   : List Byte
  commandEntries : List CommandEntry
  deriving DecidableEq, Repr

/-- The reasons the machine stops with a fault: none. "The protocol core never raises a fatal condition and never terminates
the process" (60_exceptions R160; log 15). A failure is a response status, not a fault. -/
inductive Fault where
  deriving DecidableEq, Repr

/-- The reasons a word has no meaning. -/
inductive Refusal where
  /-- Raised by an arm of `exec` whose instruction has no meaning yet; no arm raises it. Safe: the machine stops. -/
  | notModelled (mnemonic : String)
  deriving DecidableEq, Repr

/-- The machine right after reset: `SEQ` is 0 (10_state R30), the configuration is the block's constant (R9), the block waits for
the first request, having answered none (70_reset R181), and no command byte has been looked up (log 3). -/
def State.reset : State where
  cfg            := Config.deployed
  seq            := 0
  port           := []
  responses      := []
  commandBytes   := []
  commandEntries := []

end Sys2Proof.Machine
end

