-- ==== Sys2Proof/Machine/Flags.lean ====
section
/-!
DEFINITION. The outcome logic, which stands where a processor has flags (10_state R26): the validation multiplexer of 41_frame_codec
R108 with the cipher outcome of 43_entry_points R153 as a further input, and the command decode of R106.
-/

namespace Sys2Proof.Machine

/-- The check results the multiplexer merges (41_frame_codec R108, 43_entry_points R153). An operation that uses no cipher has
`cipherOk`. -/
structure Checks where
  sizeOk    : Bool
  cipherOk  : Bool
  magicOk   : Bool
  versionOk : Bool
  crcOk     : Bool
  deriving DecidableEq, Repr

/-- `accept`, the conjunction of the checks (R108). -/
def Checks.accept (c : Checks) : Bool :=
  c.sizeOk && c.cipherOk && c.magicOk && c.versionOk && c.crcOk

/-- "REJECT if the size check fails; else CIPHER_FAIL if key setup fails; else REJECT if any of the magic, version and checksum
checks fails; else OK" (R153). -/
def Checks.status (c : Checks) : Status :=
  if c.sizeOk && !c.cipherOk then .cipherFail else if c.accept then .ok else .reject

/-- "First failing step wins" (R108), in the order of 60_exceptions R164. -/
def Checks.diag (c : Checks) : Diag :=
  if c.accept then .none
  else if !c.sizeOk then .size
  else if !c.cipherOk then .keySetup
  else if !c.magicOk then .magic
  else if !c.versionOk then .version
  else .checksum

/-- `decode_command` (41_frame_codec R106): the six values, and the explicit coercion of every other one to Stop. -/
def decodeCommand (b : Byte) : Command :=
  if b = 0 then .stop
  else if b = 1 then .forward
  else if b = 2 then .backward
  else if b = 3 then .left
  else if b = 4 then .right
  else if b = 5 then .setSpeed
  else .stop

end Sys2Proof.Machine
end

