-- ==== Sys2Proof/WellFormed.lean ====
section
/-!
DEFINITION. The well-formed instructions: an unknown-command row holds only the bytes its mask and match admit. Every other
operand may have any value (30_encoding R61, R71, R74; 41_frame_codec R103).
-/

namespace Sys2Proof

/-- The check, one per row, with the row's mask and match of spec/opcode_table.json. -/
def Instr.wf : Instr → Bool
  | .crc32 _ _ => true
  | .build _ _ _ _ => true
  | .parse _ _ => true
  | .encrypt _ _ => true
  | .decrypt _ _ => true
  | .tx _ _ _ _ => true
  | .rx _ _ => true
  | .send _ _ _ => true
  | .cmdStop => true
  | .cmdForward => true
  | .cmdBackward => true
  | .cmdLeft => true
  | .cmdRight => true
  | .cmdSetSpeed => true
  | .cmdUnknown6To7 b => b &&& 0xFE == 0x06
  | .cmdUnknown8To15 b => b &&& 0xF8 == 0x08
  | .cmdUnknown16To31 b => b &&& 0xF0 == 0x10
  | .cmdUnknown32To63 b => b &&& 0xE0 == 0x20
  | .cmdUnknown64To127 b => b &&& 0xC0 == 0x40
  | .cmdUnknown128To255 b => b &&& 0x80 == 0x80

end Sys2Proof
end

