-- ==== Sys2Proof/Decode.lean ====
section
/-!
DEFINITION. Decoding and encoding: the packing of the request vector (30_encoding R68), the operation map (R70), the command map
(R64, R65), and the layout of a table word as bytes for spec/opcode_table.json's rows (log 6).
-/

namespace Sys2Proof

/-! ## The request vector -/

/-- The number that bytes hold, least significant byte first: byte `i` is bits `8i+7:8i`. -/
def bytesValue : List Byte → Nat
  | [] => 0
  | b :: bs => b.toNat + 256 * bytesValue bs

/-- A byte buffer as bits: byte `i` is `data[8i+7:8i]` (R68). -/
def blockBits (d : Block) : BitVec 128 := BitVec.ofNat 128 (bytesValue d.toList)

/-- The buffer that 128 bits hold, with the same numbering (R68). -/
def blockOfBits (v : BitVec 128) : Block :=
  Vector.ofFn fun i : Fin 16 => v.extractLsb' (8 * i.val) 8

/-- A request packed into `REQ[170:0]`, least significant field first (R68). -/
def Request.pack (r : Request) : BitVec 171 :=
  blockBits r.data ++ r.seq ++ r.right ++ r.left ++ r.cmd ++ r.len ++ r.op

/-- The fields of `REQ[170:0]` (R68). -/
def Request.unpack (v : BitVec 171) : Request where
  op    := v.extractLsb' 0 3
  len   := v.extractLsb' 3 8
  cmd   := v.extractLsb' 11 8
  left  := v.extractLsb' 19 8
  right := v.extractLsb' 27 8
  seq   := v.extractLsb' 35 8
  data  := blockOfBits (v.extractLsb' 43 128)

/-! ## Decoding -/

/-- The operation a request selects, with the operands it uses; all eight codes are defined (R70, R71). -/
def Request.instr (r : Request) : Instr :=
  match r.op.toNat with
  | 0 => .crc32 r.len r.data
  | 1 => .build r.cmd r.left r.right r.seq
  | 2 => .parse r.len r.data
  | 3 => .encrypt r.len r.data
  | 4 => .decrypt r.len r.data
  | 5 => .tx r.cmd r.left r.right r.seq
  | 6 => .rx r.len r.data
  | _ => .send r.cmd r.left r.right

/-- The row of the command map a command byte falls in; the rows "together cover all 256 values" (R64, R65, R68). -/
def commandRow (b : Byte) : Instr :=
  if b = 0 then .cmdStop
  else if b = 1 then .cmdForward
  else if b = 2 then .cmdBackward
  else if b = 3 then .cmdLeft
  else if b = 4 then .cmdRight
  else if b = 5 then .cmdSetSpeed
  else if b &&& 0xFE = 0x06 then .cmdUnknown6To7 b
  else if b &&& 0xF8 = 0x08 then .cmdUnknown8To15 b
  else if b &&& 0xF0 = 0x10 then .cmdUnknown16To31 b
  else if b &&& 0xE0 = 0x20 then .cmdUnknown32To63 b
  else if b &&& 0xC0 = 0x40 then .cmdUnknown64To127 b
  else .cmdUnknown128To255 b

/-- The instruction of a table word. No word is illegal (R70, R74). -/
def decode : TableWord → Instr
  | .request v => (Request.unpack v).instr
  | .commandByte b => commandRow b

/-- The eight rows of R70, "the complete operation set" (60_exceptions R174). -/
def Instr.isOperation : Instr → Bool
  | .crc32 _ _ => true
  | .build _ _ _ _ => true
  | .parse _ _ => true
  | .encrypt _ _ => true
  | .decrypt _ _ => true
  | .tx _ _ _ _ => true
  | .rx _ _ => true
  | .send _ _ _ => true
  | .cmdStop => false
  | .cmdForward => false
  | .cmdBackward => false
  | .cmdLeft => false
  | .cmdRight => false
  | .cmdSetSpeed => false
  | .cmdUnknown6To7 _ => false
  | .cmdUnknown8To15 _ => false
  | .cmdUnknown16To31 _ => false
  | .cmdUnknown32To63 _ => false
  | .cmdUnknown64To127 _ => false
  | .cmdUnknown128To255 _ => false

/-! ## Encoding -/

/-- A request that uses the buffer operands `len` and `data`; the fields it ignores are zero (95_test_vectors section 9). -/
def bufferRequest (op : BitVec 3) (len : Byte) (data : Block) : Request :=
  { op := op, len := len, cmd := 0, left := 0, right := 0, seq := 0, data := data }

/-- A request that uses the typed operands; the fields it ignores are zero (95_test_vectors section 9). -/
def typedRequest (op : BitVec 3) (cmd left right seq : Byte) : Request :=
  { op := op, len := 0, cmd := cmd, left := left, right := right, seq := seq, data := Vector.replicate 16 0 }

/-- The word of an instruction, from the operation map (R70) and the command map (R64, R65). -/
def encode : Instr → TableWord
  | .crc32 len data => .request (bufferRequest 0 len data).pack
  | .build cmd left right seq => .request (typedRequest 1 cmd left right seq).pack
  | .parse len data => .request (bufferRequest 2 len data).pack
  | .encrypt len data => .request (bufferRequest 3 len data).pack
  | .decrypt len data => .request (bufferRequest 4 len data).pack
  | .tx cmd left right seq => .request (typedRequest 5 cmd left right seq).pack
  | .rx len data => .request (bufferRequest 6 len data).pack
  | .send cmd left right => .request (typedRequest 7 cmd left right 0).pack
  | .cmdStop => .commandByte 0
  | .cmdForward => .commandByte 1
  | .cmdBackward => .commandByte 2
  | .cmdLeft => .commandByte 3
  | .cmdRight => .commandByte 4
  | .cmdSetSpeed => .commandByte 5
  | .cmdUnknown6To7 b => .commandByte b
  | .cmdUnknown8To15 b => .commandByte b
  | .cmdUnknown16To31 b => .commandByte b
  | .cmdUnknown32To63 b => .commandByte b
  | .cmdUnknown64To127 b => .commandByte b
  | .cmdUnknown128To255 b => .commandByte b

/-! ## Words as bytes

The port is not made of bytes; `decodeTableWord` is handed a row's bits. They are laid out as bytes, bits 7:0 first: one byte
is a word of format CMD8, 22 bytes hold the 171 bits of format REQ and five bits above them that do not exist (log 6). -/

/-- Why bytes are no table word. -/
inductive DecodeError where
  /-- Neither the 1 byte of format CMD8 nor the 22 bytes of format REQ. -/
  | wrongLength (bytes : Nat)
  /-- 22 bytes with a bit set above bit 170. -/
  | strayBits
  deriving DecidableEq, Repr

/-- The `n` low bytes of a number, least significant byte first. -/
def valueBytes : Nat → Nat → List Byte
  | 0, _ => []
  | n + 1, w => BitVec.ofNat 8 w :: valueBytes n (w / 256)

/-- The table word that bytes hold, or why they hold none. -/
def wordOfBytes (bs : List Byte) : Except DecodeError TableWord :=
  if bs.length = 1 then .ok (.commandByte (BitVec.ofNat 8 (bytesValue bs)))
  else if bs.length = 22 then
    if bytesValue bs < 2 ^ 171 then .ok (.request (BitVec.ofNat 171 (bytesValue bs))) else .error .strayBits
  else .error (.wrongLength bs.length)

/-- Decoding on any bytes. -/
def decodeBytes (bs : List Byte) : Except DecodeError Instr :=
  match wordOfBytes bs with
  | .ok w => .ok (decode w)
  | .error e => .error e

/-- The bytes of a row's word: one for a row of at most 8 bits, else at least the 22 of a request vector. -/
def tableBytes (nbits w : Nat) : List Byte :=
  valueBytes (if nbits ≤ 8 then 1 else max 22 ((nbits + 7) / 8)) w

/-- The instruction the decoder reads from a row's word. -/
def decodeTableWord (nbits w : Nat) : Option Instr :=
  match decodeBytes (tableBytes nbits w) with
  | .ok i => some i
  | .error _ => none

end Sys2Proof
end

