-- ==== Sys2Proof/Machine/Ops.lean ====
section
/-!
DEFINITION. The named operations the meanings share: reading the request buffer (`MemRead`), building a response (`return OK`,
`raise`, `MemWrite`), answering, the sequence counter, reset, and taking inputs.
-/

namespace Sys2Proof

/-- The byte of a command (30_encoding R64). -/
def Command.code : Command → Byte
  | .stop => 0
  | .forward => 1
  | .backward => 2
  | .left => 3
  | .right => 4
  | .setSpeed => 5

end Sys2Proof

namespace Sys2Proof.Machine

/-! ## The request buffer -/

/-- `MemRead(off, n)`: bytes `off` to `off+n-1` of the request's data, "legal only when `off + n <= min(req.len, 16)`"
(00_scope R13, 20_memory R41, R46). -/
def memRead (len : Byte) (data : Block) (off n : Nat) : Option (List Byte) :=
  if off + n ≤ min len.toNat 16 then some ((data.toList.drop off).take n) else none

/-! ## Building a response -/

/-- `return OK` with no field yet (00_scope R13). -/
def Response.accepted : Response := { status := .ok, diag := .none }

/-- `raise S(d)`: the operation ends with status `S` and diagnostic `d`, and the response carries no result field (00_scope R13,
60_exceptions R166). A failure is delivered here and nowhere else (R170). -/
def Response.raise (st : Status) (d : Diag) : Response := { status := st, diag := d }

/-- `MemWrite(0, 16, v)`: the response's output buffer holds `v` (00_scope R13, 20_memory R46). -/
def Response.memWrite (r : Response) (v : Block) : Response := { r with out := some v }

/-! ## Answering -/

/-- What an instruction gives follows all that was given before (20_memory R50). -/
def State.emit (s : State) : Output → State
  | .response r => { s with responses := s.responses ++ [r] }
  | .command e => { s with commandEntries := s.commandEntries ++ [e] }

/-- The block answers a request (00_scope R11). -/
def State.answer (s : State) (r : Response) : State := s.emit (.response r)

/-! ## The sequence counter -/

/-- The value of `SEQ` (10_state R20). -/
def State.readSeq (s : State) : Byte := s.seq

/-- `SEQ <- v` (10_state R20). -/
def State.writeSeq (s : State) (v : Byte) : State := { s with seq := v }

/-- The value after `s`: addition modulo 256, "no flag, no saturation and no event at the wrap" (10_state R23). -/
def nextSeq (s : Byte) : Byte := s + 1

/-! ## Reset and inputs -/

/-- The reset event: "its whole effect is `SEQ <- 0`" (70_reset R180). A response already produced stays (R182). -/
def State.resetEvent (s : State) : State := s.writeSeq 0

/-- The port with its first input consumed (10_state R24: "each operation consumes one request"). -/
def State.consume (s : State) : State := { s with port := s.port.tail }

/-- The first command byte taken (log 3). -/
def State.takeCommandByte (s : State) : State := { s with commandBytes := s.commandBytes.tail }

/-! ## The response on pins -/

/-- The code of a status (30_encoding R72). -/
def Status.code : Status → BitVec 2
  | .ok => 0
  | .reject => 1
  | .cipherFail => 2

/-- The code of a diagnostic (30_encoding R73). -/
def Diag.code : Diag → BitVec 3
  | .none => 0
  | .size => 1
  | .magic => 2
  | .version => 3
  | .checksum => 4
  | .keySetup => 5
  | .cipherOp => 6

/-- `rsv[8j+7:8j]` is frame byte 9 + j (30_encoding R69). -/
def reservedBits (v : Vector Byte 3) : BitVec 24 := v[2] ++ v[1] ++ v[0]

/-- The response on pins: "on physical pins the absent fields read as zero" (60_exceptions R166). -/
def Response.pins (r : Response) : ResponsePins where
  status := r.status.code
  diag   := r.diag.code
  crc    := r.crc.getD 0
  cmd    := (r.cmd.map Command.code).getD 0
  left   := r.left.getD 0
  right  := r.right.getD 0
  seq    := r.seq.getD 0
  rsv    := (r.rsv.map reservedBits).getD 0
  out    := (r.out.map blockBits).getD 0

end Sys2Proof.Machine
end

