-- ==== Sys2Proof/Machine/CommandByte.lean ====
section
/-!
DEFINITION. The command-byte rows of the opcode table (30_encoding R64, R65): what the codec does with the byte at frame offset 5. These
rows are no operations (60_exceptions R174); log 3 says how each gets a meaning of its own.
-/

namespace Sys2Proof.Machine

/-- What the codec does with a command byte: on build it writes the byte as given (41_frame_codec R103), on parse it delivers the
decoded command (R106). The block's register, its port and its responses are not touched. -/
def State.passCommand (s : State) (b : Byte) : State := s.emit (.command { written := b, decoded := decodeCommand b })

/-- CMD.Stop, byte 0 (R64). -/
def execCmdStop (s : State) : Host.Outcome State Fault Refusal := .next (s.passCommand 0)

/-- CMD.Forward, byte 1 (R64). -/
def execCmdForward (s : State) : Host.Outcome State Fault Refusal := .next (s.passCommand 1)

/-- CMD.Backward, byte 2 (R64). -/
def execCmdBackward (s : State) : Host.Outcome State Fault Refusal := .next (s.passCommand 2)

/-- CMD.Left, byte 3 (R64). -/
def execCmdLeft (s : State) : Host.Outcome State Fault Refusal := .next (s.passCommand 3)

/-- CMD.Right, byte 4 (R64). -/
def execCmdRight (s : State) : Host.Outcome State Fault Refusal := .next (s.passCommand 4)

/-- CMD.SetSpeed, byte 5 (R64). -/
def execCmdSetSpeed (s : State) : Host.Outcome State Fault Refusal := .next (s.passCommand 5)

/-- CMD.unknown_6_7 (R65). -/
def execCmdUnknown6To7 (b : Byte) (s : State) : Host.Outcome State Fault Refusal := .next (s.passCommand b)

/-- CMD.unknown_8_15 (R65). -/
def execCmdUnknown8To15 (b : Byte) (s : State) : Host.Outcome State Fault Refusal := .next (s.passCommand b)

/-- CMD.unknown_16_31 (R65). -/
def execCmdUnknown16To31 (b : Byte) (s : State) : Host.Outcome State Fault Refusal := .next (s.passCommand b)

/-- CMD.unknown_32_63 (R65). -/
def execCmdUnknown32To63 (b : Byte) (s : State) : Host.Outcome State Fault Refusal := .next (s.passCommand b)

/-- CMD.unknown_64_127 (R65). -/
def execCmdUnknown64To127 (b : Byte) (s : State) : Host.Outcome State Fault Refusal := .next (s.passCommand b)

/-- CMD.unknown_128_255 (R65). -/
def execCmdUnknown128To255 (b : Byte) (s : State) : Host.Outcome State Fault Refusal := .next (s.passCommand b)

end Sys2Proof.Machine
end

