-- ==== Sys2Proof/Machine/Operands.lean ====
section
/-!
DEFINITION. The two buffer operand forms: the buffer of a frame operation and the buffer of CRC32. Each tests `len` before it
reads a byte (60_exceptions R163). Typed operands are plain bytes and need no form (30_encoding R61).
-/

namespace Sys2Proof.Machine

/-- The 16 bytes a frame operation (PARSE, ENCRYPT, DECRYPT, RX) reads, or none when `len` is below 16; a longer `len` is
treated as 16 (20_memory R46, R47; log 10). -/
def frameOperand (len : Byte) (data : Block) : Option Block :=
  if len.toNat < 16 then none else some data

/-- The `len` bytes CRC32 reads, or none when `len` is above 16 (40_integrity R94, R95). -/
def crcOperand (len : Byte) (data : Block) : Option (List Byte) :=
  if len.toNat > 16 then none else memRead len data 0 len.toNat

end Sys2Proof.Machine
end

