-- ==== Sys2Proof/Machine/Integrity.lean ====
section
/-!
DEFINITION. The Integrity Layer: CRC-32/ISO-HDLC (40_integrity_crc32) and the operation CRC32.
-/

namespace Sys2Proof.Machine

/-- `CRC_POLY` (00_scope R9). -/
def crcPoly : Word := 0xEDB88320

/-- `CRC_INIT` (00_scope R9). -/
def crcInit : Word := 0xFFFFFFFF

/-- `CRC_XOROUT` (00_scope R9). -/
def crcXorOut : Word := 0xFFFFFFFF

/-- One of the eight iterations; the test is on the value before the shift (R90). -/
def crcBit (reg : Word) : Word :=
  if reg.getLsbD 0 then (reg >>> 1) ^^^ crcPoly else reg >>> 1

/-- `n` iterations (R90). -/
def crcBits : Nat → Word → Word
  | 0, reg => reg
  | n + 1, reg => crcBits n (crcBit reg)

/-- One byte: it enters the low 8 bits, then eight iterations (R90). -/
def crcByte (reg : Word) (b : Byte) : Word := crcBits 8 (reg ^^^ b.setWidth 32)

/-- The running register after the bytes of a buffer, in increasing index order (R90). -/
def crcRun (reg : Word) (bs : List Byte) : Word := bs.foldl crcByte reg

/-- `crc32` of a buffer of any length (R90, R91). -/
def crc32 (bs : List Byte) : Word := crcRun crcInit bs ^^^ crcXorOut

/-- `T[k]`, the table of the table form (R92). -/
def crcTable (k : Byte) : Word := crcBits 8 (k.setWidth 32)

/-- One byte of the table form (R92). -/
def crcTableByte (reg : Word) (b : Byte) : Word :=
  (reg >>> 8) ^^^ crcTable ((reg ^^^ b.setWidth 32).setWidth 8)

/-- The table form of `crc32` (R92): the second formulation, which the block's contract does not tell from the first. -/
def crc32ByTable (bs : List Byte) : Word := bs.foldl crcTableByte crcInit ^^^ crcXorOut

/-- The response of CRC32 (R94, R95). -/
def crc32Response (len : Byte) (data : Block) : Response :=
  match crcOperand len data with
  | none => .raise .reject .size
  | some b => { Response.accepted with crc := some (crc32 b) }

/-- CRC32 (R94). -/
def execCrc32 (len : Byte) (data : Block) (s : State) : Host.Outcome State Fault Refusal :=
  .next (s.answer (crc32Response len data))

end Sys2Proof.Machine
end

