-- ==== Sys2Proof/Machine/Cipher.lean ====
section
/-!
DEFINITION. The Confidentiality Layer: the AES datapath, key expansion, the single-block CBC step (42_confidentiality_aes) and the
operations ENCRYPT and DECRYPT. The AES internals are the spec's own supply from general knowledge (log 16).
-/

namespace Sys2Proof.Machine

/-! ## Field arithmetic -/

/-- Multiplication by x in GF(2^8) (R122). -/
def xtime (a : Byte) : Byte :=
  if a.getLsbD 7 then (a <<< 1) ^^^ 0x1B else a <<< 1

/-- The loop of `gmul` from bit `i` on, for `n` more bits (R122). -/
def gmulLoop : Nat → Nat → Byte → Byte → Byte → Byte
  | 0, _, _, _, p => p
  | n + 1, i, a, b, p => gmulLoop n (i + 1) (xtime a) b (if b.getLsbD i then p ^^^ a else p)

/-- The product of two bytes in GF(2^8) (R122). -/
def gmul (a b : Byte) : Byte := gmulLoop 8 0 a b 0

/-! ## Substitution -/

/-- The table of R123: row = high hexadecimal digit, column = low digit. -/
def sboxRows : List (List Byte) :=
  [[0x63, 0x7c, 0x77, 0x7b, 0xf2, 0x6b, 0x6f, 0xc5, 0x30, 0x01, 0x67, 0x2b, 0xfe, 0xd7, 0xab, 0x76],
   [0xca, 0x82, 0xc9, 0x7d, 0xfa, 0x59, 0x47, 0xf0, 0xad, 0xd4, 0xa2, 0xaf, 0x9c, 0xa4, 0x72, 0xc0],
   [0xb7, 0xfd, 0x93, 0x26, 0x36, 0x3f, 0xf7, 0xcc, 0x34, 0xa5, 0xe5, 0xf1, 0x71, 0xd8, 0x31, 0x15],
   [0x04, 0xc7, 0x23, 0xc3, 0x18, 0x96, 0x05, 0x9a, 0x07, 0x12, 0x80, 0xe2, 0xeb, 0x27, 0xb2, 0x75],
   [0x09, 0x83, 0x2c, 0x1a, 0x1b, 0x6e, 0x5a, 0xa0, 0x52, 0x3b, 0xd6, 0xb3, 0x29, 0xe3, 0x2f, 0x84],
   [0x53, 0xd1, 0x00, 0xed, 0x20, 0xfc, 0xb1, 0x5b, 0x6a, 0xcb, 0xbe, 0x39, 0x4a, 0x4c, 0x58, 0xcf],
   [0xd0, 0xef, 0xaa, 0xfb, 0x43, 0x4d, 0x33, 0x85, 0x45, 0xf9, 0x02, 0x7f, 0x50, 0x3c, 0x9f, 0xa8],
   [0x51, 0xa3, 0x40, 0x8f, 0x92, 0x9d, 0x38, 0xf5, 0xbc, 0xb6, 0xda, 0x21, 0x10, 0xff, 0xf3, 0xd2]] ++
  [[0xcd, 0x0c, 0x13, 0xec, 0x5f, 0x97, 0x44, 0x17, 0xc4, 0xa7, 0x7e, 0x3d, 0x64, 0x5d, 0x19, 0x73],
   [0x60, 0x81, 0x4f, 0xdc, 0x22, 0x2a, 0x90, 0x88, 0x46, 0xee, 0xb8, 0x14, 0xde, 0x5e, 0x0b, 0xdb],
   [0xe0, 0x32, 0x3a, 0x0a, 0x49, 0x06, 0x24, 0x5c, 0xc2, 0xd3, 0xac, 0x62, 0x91, 0x95, 0xe4, 0x79],
   [0xe7, 0xc8, 0x37, 0x6d, 0x8d, 0xd5, 0x4e, 0xa9, 0x6c, 0x56, 0xf4, 0xea, 0x65, 0x7a, 0xae, 0x08],
   [0xba, 0x78, 0x25, 0x2e, 0x1c, 0xa6, 0xb4, 0xc6, 0xe8, 0xdd, 0x74, 0x1f, 0x4b, 0xbd, 0x8b, 0x8a],
   [0x70, 0x3e, 0xb5, 0x66, 0x48, 0x03, 0xf6, 0x0e, 0x61, 0x35, 0x57, 0xb9, 0x86, 0xc1, 0x1d, 0x9e],
   [0xe1, 0xf8, 0x98, 0x11, 0x69, 0xd9, 0x8e, 0x94, 0x9b, 0x1e, 0x87, 0xe9, 0xce, 0x55, 0x28, 0xdf],
   [0x8c, 0xa1, 0x89, 0x0d, 0xbf, 0xe6, 0x42, 0x68, 0x41, 0x99, 0x2d, 0x0f, 0xb0, 0x54, 0xbb, 0x16]]

/-- The table of R124, laid out in the same way. -/
def invSboxRows : List (List Byte) :=
  [[0x52, 0x09, 0x6a, 0xd5, 0x30, 0x36, 0xa5, 0x38, 0xbf, 0x40, 0xa3, 0x9e, 0x81, 0xf3, 0xd7, 0xfb],
   [0x7c, 0xe3, 0x39, 0x82, 0x9b, 0x2f, 0xff, 0x87, 0x34, 0x8e, 0x43, 0x44, 0xc4, 0xde, 0xe9, 0xcb],
   [0x54, 0x7b, 0x94, 0x32, 0xa6, 0xc2, 0x23, 0x3d, 0xee, 0x4c, 0x95, 0x0b, 0x42, 0xfa, 0xc3, 0x4e],
   [0x08, 0x2e, 0xa1, 0x66, 0x28, 0xd9, 0x24, 0xb2, 0x76, 0x5b, 0xa2, 0x49, 0x6d, 0x8b, 0xd1, 0x25],
   [0x72, 0xf8, 0xf6, 0x64, 0x86, 0x68, 0x98, 0x16, 0xd4, 0xa4, 0x5c, 0xcc, 0x5d, 0x65, 0xb6, 0x92],
   [0x6c, 0x70, 0x48, 0x50, 0xfd, 0xed, 0xb9, 0xda, 0x5e, 0x15, 0x46, 0x57, 0xa7, 0x8d, 0x9d, 0x84],
   [0x90, 0xd8, 0xab, 0x00, 0x8c, 0xbc, 0xd3, 0x0a, 0xf7, 0xe4, 0x58, 0x05, 0xb8, 0xb3, 0x45, 0x06],
   [0xd0, 0x2c, 0x1e, 0x8f, 0xca, 0x3f, 0x0f, 0x02, 0xc1, 0xaf, 0xbd, 0x03, 0x01, 0x13, 0x8a, 0x6b]] ++
  [[0x3a, 0x91, 0x11, 0x41, 0x4f, 0x67, 0xdc, 0xea, 0x97, 0xf2, 0xcf, 0xce, 0xf0, 0xb4, 0xe6, 0x73],
   [0x96, 0xac, 0x74, 0x22, 0xe7, 0xad, 0x35, 0x85, 0xe2, 0xf9, 0x37, 0xe8, 0x1c, 0x75, 0xdf, 0x6e],
   [0x47, 0xf1, 0x1a, 0x71, 0x1d, 0x29, 0xc5, 0x89, 0x6f, 0xb7, 0x62, 0x0e, 0xaa, 0x18, 0xbe, 0x1b],
   [0xfc, 0x56, 0x3e, 0x4b, 0xc6, 0xd2, 0x79, 0x20, 0x9a, 0xdb, 0xc0, 0xfe, 0x78, 0xcd, 0x5a, 0xf4],
   [0x1f, 0xdd, 0xa8, 0x33, 0x88, 0x07, 0xc7, 0x31, 0xb1, 0x12, 0x10, 0x59, 0x27, 0x80, 0xec, 0x5f],
   [0x60, 0x51, 0x7f, 0xa9, 0x19, 0xb5, 0x4a, 0x0d, 0x2d, 0xe5, 0x7a, 0x9f, 0x93, 0xc9, 0x9c, 0xef],
   [0xa0, 0xe0, 0x3b, 0x4d, 0xae, 0x2a, 0xf5, 0xb0, 0xc8, 0xeb, 0xbb, 0x3c, 0x83, 0x53, 0x99, 0x61],
   [0x17, 0x2b, 0x04, 0x7e, 0xba, 0x77, 0xd6, 0x26, 0xe1, 0x69, 0x14, 0x63, 0x55, 0x21, 0x0c, 0x7d]]

/-- The entry of a table for a byte: row by its high hexadecimal digit, column by its low one. -/
def tableEntry (rows : List (List Byte)) (a : Byte) : Byte :=
  (rows.getD (a.toNat / 16) []).getD (a.toNat % 16) 0

/-- `SBOX[a]` (R123). -/
def sbox (a : Byte) : Byte := tableEntry sboxRows a

/-- `INV_SBOX[a]` (R124). -/
def invSbox (a : Byte) : Byte := tableEntry invSboxRows a

/-! ## Round functions

The state is kept as a 16-byte buffer `t` with `t[r + 4c]` = `s[r, c]` (R121). -/

/-- `SubBytes` (R125). -/
def subBytes (t : Block) : Block := Vector.ofFn fun i : Fin 16 => sbox t[i]

/-- `InvSubBytes` (R125). -/
def invSubBytes (t : Block) : Block := Vector.ofFn fun i : Fin 16 => invSbox t[i]

/-- The index permutation `P` (R126). -/
def shiftIndex : Vector (Fin 16) 16 := #v[0, 5, 10, 15, 4, 9, 14, 3, 8, 13, 2, 7, 12, 1, 6, 11]

/-- The index permutation `Q` (R126). -/
def invShiftIndex : Vector (Fin 16) 16 := #v[0, 13, 10, 7, 4, 1, 14, 11, 8, 5, 2, 15, 12, 9, 6, 3]

/-- `ShiftRows`: `t'[i] = t[P[i]]` (R126). -/
def shiftRows (t : Block) : Block := Vector.ofFn fun i : Fin 16 => t[shiftIndex[i]]

/-- `InvShiftRows`: `t'[i] = t[Q[i]]` (R126). -/
def invShiftRows (t : Block) : Block := Vector.ofFn fun i : Fin 16 => t[invShiftIndex[i]]

/-- One column of `MixColumns` (R127). -/
def mixColumn (a0 a1 a2 a3 : Byte) : Quad :=
  #v[gmul a0 2 ^^^ gmul a1 3 ^^^ a2 ^^^ a3,
     a0 ^^^ gmul a1 2 ^^^ gmul a2 3 ^^^ a3,
     a0 ^^^ a1 ^^^ gmul a2 2 ^^^ gmul a3 3,
     gmul a0 3 ^^^ a1 ^^^ a2 ^^^ gmul a3 2]

/-- One column of `InvMixColumns` (R128). -/
def invMixColumn (a0 a1 a2 a3 : Byte) : Quad :=
  #v[gmul a0 0x0e ^^^ gmul a1 0x0b ^^^ gmul a2 0x0d ^^^ gmul a3 0x09,
     gmul a0 0x09 ^^^ gmul a1 0x0e ^^^ gmul a2 0x0b ^^^ gmul a3 0x0d,
     gmul a0 0x0d ^^^ gmul a1 0x09 ^^^ gmul a2 0x0e ^^^ gmul a3 0x0b,
     gmul a0 0x0b ^^^ gmul a1 0x0d ^^^ gmul a2 0x09 ^^^ gmul a3 0x0e]

/-- A transformation of each column on its own; column `c` is `t[4c .. 4c+3]` (R121, R127). -/
def mapColumns (f : Byte → Byte → Byte → Byte → Quad) (t : Block) : Block :=
  Vector.ofFn fun i : Fin 16 =>
    (f (t[4 * (i.val / 4)]'(by omega)) (t[4 * (i.val / 4) + 1]'(by omega)) (t[4 * (i.val / 4) + 2]'(by omega))
      (t[4 * (i.val / 4) + 3]'(by omega)))[i.val % 4]'(by omega)

/-- `MixColumns` (R127). -/
def mixColumns (t : Block) : Block := mapColumns mixColumn t

/-- `InvMixColumns` (R128). -/
def invMixColumns (t : Block) : Block := mapColumns invMixColumn t

/-- Byte-by-byte exclusive or of two blocks (R44, R129, R137). -/
def xorBlock (a b : Block) : Block := Vector.ofFn fun i : Fin 16 => a[i] ^^^ b[i]

/-! ## Key expansion -/

/-- A 4-byte word of zeros. -/
def zeroQuad : Quad := Vector.replicate 4 0

/-- Byte-by-byte exclusive or of two words (R131). -/
def xorQuad (a b : Quad) : Quad := Vector.ofFn fun j : Fin 4 => a[j] ^^^ b[j]

/-- `RotWord` (R131). -/
def rotWord (w : Quad) : Quad := #v[w[1], w[2], w[3], w[0]]

/-- `SubWord` (R131). -/
def subWord (w : Quad) : Quad := Vector.ofFn fun j : Fin 4 => sbox w[j]

/-- `RCON[j+1]` (R130). -/
def rconFrom : Nat → Byte
  | 0 => 1
  | j + 1 => xtime (rconFrom j)

/-- `RCON[j]`, for `j` from 1 (R130). -/
def rcon (j : Nat) : Byte := rconFrom (j - 1)

/-- The word `tmp` that enters word `i` of the schedule, from word `i - 1` (R131). -/
def scheduleTmp (nk i : Nat) (prev : Quad) : Quad :=
  if i % nk = 0 then xorQuad (subWord (rotWord prev)) #v[rcon (i / nk), 0, 0, 0]
  else if nk > 6 ∧ i % nk = 4 then subWord prev
  else prev

/-- `n` more words of the schedule after the words `w` (R131). -/
def expandFrom (nk : Nat) : Nat → List Quad → List Quad
  | 0, w => w
  | n + 1, w =>
    let i := w.length
    expandFrom nk n (w ++ [xorQuad (w.getD (i - nk) zeroQuad) (scheduleTmp nk i (w.getD (i - 1) zeroQuad))])

/-- The `i`-th word of the key itself: bytes `4i` to `4i+3` (R131). -/
def keyWord (key : List Byte) (i : Nat) : Quad :=
  #v[key.getD (4 * i) 0, key.getD (4 * i + 1) 0, key.getD (4 * i + 2) 0, key.getD (4 * i + 3) 0]

/-- `key_expansion(K)` for Nk = `nk` and Nr = `nr`: `4(Nr + 1)` words (R131). -/
def keyExpansion (nk nr : Nat) (key : List Byte) : List Quad :=
  expandFrom nk (4 * (nr + 1) - nk) ((List.range nk).map (keyWord key))

/-- Nk of this hardware (R131, R132). -/
def aesNk : Nat := 8

/-- Nr of this hardware (R131, R132). -/
def aesNr : Nat := 14

/-! ## Cipher and inverse cipher -/

/-- The round key of round `k` as a 16-byte buffer: words `4k` to `4k+3` (R129). -/
def roundKey (w : List Quad) (k : Nat) : Block :=
  Vector.ofFn fun i : Fin 16 => (w.getD (4 * k + i.val / 4) zeroQuad)[i.val % 4]'(by omega)

/-- `AddRoundKey(t, w, k)` (R129). -/
def addRoundKey (t : Block) (w : List Quad) (k : Nat) : Block := xorBlock t (roundKey w k)

/-- A full round of the cipher (R133). -/
def encryptRound (w : List Quad) (k : Nat) (t : Block) : Block :=
  addRoundKey (mixColumns (shiftRows (subBytes t))) w k

/-- The last round of the cipher, without `MixColumns` (R133). -/
def encryptLastRound (w : List Quad) (k : Nat) (t : Block) : Block :=
  addRoundKey (shiftRows (subBytes t)) w k

/-- Full rounds 1 to `n`, in increasing order (R133). -/
def encryptRounds (w : List Quad) : Nat → Block → Block
  | 0, t => t
  | n + 1, t => encryptRound w (n + 1) (encryptRounds w n t)

/-- `aes_encrypt_block(w, b)` with `nr` rounds (R133). -/
def aesEncryptBlock (nr : Nat) (w : List Quad) (b : Block) : Block :=
  encryptLastRound w nr (encryptRounds w (nr - 1) (addRoundKey b w 0))

/-- A full round of the inverse cipher (R134). -/
def decryptRound (w : List Quad) (k : Nat) (t : Block) : Block :=
  invMixColumns (addRoundKey (invSubBytes (invShiftRows t)) w k)

/-- The last round of the inverse cipher, without `InvMixColumns` (R134). -/
def decryptLastRound (w : List Quad) (t : Block) : Block :=
  addRoundKey (invSubBytes (invShiftRows t)) w 0

/-- Full rounds `n` down to 1 of the inverse cipher (R134). -/
def decryptRounds (w : List Quad) : Nat → Block → Block
  | 0, t => t
  | n + 1, t => decryptRounds w n (decryptRound w (n + 1) t)

/-- `aes_decrypt_block(w, b)` with `nr` rounds (R134). -/
def aesDecryptBlock (nr : Nat) (w : List Quad) (b : Block) : Block :=
  decryptLastRound w (decryptRounds w (nr - 1) (addRoundKey b w nr))

/-! ## Key setup and the single-block CBC step -/

/-- `key_setup(cfg)`: it fails exactly when `KEY_LEN` is not 32 (R136; log 8). -/
def keySetup (cfg : Config) : Except Diag (List Quad) :=
  if cfg.key.length ≠ 32 then .error .keySetup else .ok (keyExpansion aesNk aesNr cfg.key)

/-- `cbc1_encrypt(cfg, w, p)`: exclusive or with the IV, then the block cipher; no padding (R137). -/
def cbc1Encrypt (cfg : Config) (w : List Quad) (p : Block) : Block :=
  aesEncryptBlock aesNr w (xorBlock p cfg.iv)

/-- `cbc1_decrypt(cfg, w, c)`: block decipher, then exclusive or with the IV (R138). -/
def cbc1Decrypt (cfg : Config) (w : List Quad) (c : Block) : Block :=
  xorBlock (aesDecryptBlock aesNr w c) cfg.iv

/-! ## The operations -/

/-- The response of ENCRYPT: size, then key setup, then the block (R140, 60_exceptions R164). -/
def encryptResponse (cfg : Config) (len : Byte) (data : Block) : Response :=
  match frameOperand len data with
  | none => .raise .reject .size
  | some p =>
    match keySetup cfg with
    | .error d => .raise .cipherFail d
    | .ok w => Response.accepted.memWrite (cbc1Encrypt cfg w p)

/-- ENCRYPT (R140). -/
def execEncrypt (len : Byte) (data : Block) (s : State) : Host.Outcome State Fault Refusal :=
  .next (s.answer (encryptResponse s.cfg len data))

/-- The response of DECRYPT (R141). -/
def decryptResponse (cfg : Config) (len : Byte) (data : Block) : Response :=
  match frameOperand len data with
  | none => .raise .reject .size
  | some c =>
    match keySetup cfg with
    | .error d => .raise .cipherFail d
    | .ok w => Response.accepted.memWrite (cbc1Decrypt cfg w c)

/-- DECRYPT (R141). -/
def execDecrypt (len : Byte) (data : Block) (s : State) : Host.Outcome State Fault Refusal :=
  .next (s.answer (decryptResponse s.cfg len data))

end Sys2Proof.Machine
end

