-- ==== Sys2Proof/Machine/Codec.lean ====
section
/-!
DEFINITION. The Frame Codec: the frame layout (30_encoding R60), building, stamping, parsing (41_frame_codec) and the operations
BUILD and PARSE.
-/

namespace Sys2Proof.Machine

/-! ## The checksum field -/

/-- `le32(c)` (30_encoding R63). -/
def le32 (c : Word) : Quad :=
  #v[c.extractLsb' 0 8, c.extractLsb' 8 8, c.extractLsb' 16 8, c.extractLsb' 24 8]

/-- `be32(c)` (30_encoding R63). -/
def be32 (c : Word) : Quad :=
  #v[c.extractLsb' 24 8, c.extractLsb' 16 8, c.extractLsb' 8 8, c.extractLsb' 0 8]

/-- `from_le32(b)` (30_encoding R63). -/
def fromLe32 (b : Quad) : Word := b[3] ++ b[2] ++ b[1] ++ b[0]

/-- `from_be32(b)` (30_encoding R63). -/
def fromBe32 (b : Quad) : Word := b[0] ++ b[1] ++ b[2] ++ b[3]

/-- The checksum field of a value under `CRC_ORDER` (20_memory R42, 30_encoding R63). -/
def checksumBytes (order : CrcOrder) (c : Word) : Quad :=
  match order with
  | .le => le32 c
  | .be => be32 c

/-- The value of a checksum field under `CRC_ORDER` (30_encoding R63). -/
def checksumValue (order : CrcOrder) (b : Quad) : Word :=
  match order with
  | .le => fromLe32 b
  | .be => fromBe32 b

/-! ## Frames -/

/-- `frame[0..11]`, the span the checksum covers (`CRC_SPAN`, R9; 30_encoding R62). -/
def covered (f : Block) : List Byte := f.toList.take 12

/-- The checksum field of a frame, bytes 12 to 15 (30_encoding R60). -/
def checksumField (f : Block) : Quad := #v[f[12], f[13], f[14], f[15]]

/-- `stamp_bytes(cfg, p)` (41_frame_codec R101). -/
def stampBytes (cfg : Config) (p : List Byte) : Quad := checksumBytes cfg.crcOrder (crc32 p)

/-- `stamp(f)`: bytes 12 to 15 become the checksum field of `crc32(f[0..11])` (30_encoding R77, 41_frame_codec R101). -/
def stamp (cfg : Config) (f : Block) : Block :=
  let q := stampBytes cfg (covered f)
  #v[f[0], f[1], f[2], f[3], f[4], f[5], f[6], f[7], f[8], f[9], f[10], f[11], q[0], q[1], q[2], q[3]]

/-- Bytes 0 to 11 of a built frame, in a frame whose checksum field is still zero (30_encoding R60, 41_frame_codec R100). -/
def frameFields (cfg : Config) (c l r s : Byte) : Block :=
  #v[cfg.magic[0], cfg.magic[1], cfg.magic[2], cfg.magic[3], cfg.version, c, l, r, s, 0, 0, 0, 0, 0, 0, 0]

/-- `build_frame(cfg, c, l, r, s)`; its last step is the stamp (41_frame_codec R100, R101). The command is written as given
(R103). -/
def buildFrame (cfg : Config) (c l r s : Byte) : Block := stamp cfg (frameFields cfg c l r s)

/-! ## Parsing -/

/-- The fields `parse_frame` accepts with (41_frame_codec R107). -/
structure ParsedFrame where
  cmd   : Command
  left  : Byte
  right : Byte
  seq   : Byte
  rsv   : Vector Byte 3
  crc   : Word
  deriving DecidableEq, Repr

/-- The result of `parse_frame` (41_frame_codec R107). -/
inductive ParseResult where
  | reject (step : Diag)
  | accept (x : ParsedFrame)
  deriving DecidableEq, Repr

/-- `f[0..3]` (30_encoding R60). -/
def magicField (f : Block) : Quad := #v[f[0], f[1], f[2], f[3]]

/-- The checksum stored in a frame (41_frame_codec R107 step 4). -/
def storedChecksum (cfg : Config) (f : Block) : Word := checksumValue cfg.crcOrder (checksumField f)

/-- The fields of an accepted frame (41_frame_codec R107 step 5). -/
def frameValues (cfg : Config) (f : Block) : ParsedFrame where
  cmd   := decodeCommand f[5]
  left  := f[6]
  right := f[7]
  seq   := f[8]
  rsv   := #v[f[9], f[10], f[11]]
  crc   := storedChecksum cfg f

/-- Steps 2 to 5 of `parse_frame`, on 16 bytes (41_frame_codec R107). -/
def validateFrame (cfg : Config) (f : Block) : ParseResult :=
  if magicField f ≠ cfg.magic then .reject .magic
  else if f[4] ≠ cfg.version then .reject .version
  else if storedChecksum cfg f ≠ crc32 (covered f) then .reject .checksum
  else .accept (frameValues cfg f)

/-- `parse_frame(cfg, d, n)`: step 1, then the rest (41_frame_codec R107). -/
def parseFrame (cfg : Config) (data : Block) (len : Byte) : ParseResult :=
  match frameOperand len data with
  | none => .reject .size
  | some f => validateFrame cfg f

/-- The check results of a frame for the multiplexer (41_frame_codec R108). -/
def frameChecks (cfg : Config) (sizeOk cipherOk : Bool) (f : Block) : Checks where
  sizeOk    := sizeOk
  cipherOk  := cipherOk
  magicOk   := magicField f == cfg.magic
  versionOk := f[4] == cfg.version
  crcOk     := storedChecksum cfg f == crc32 (covered f)

/-! ## The operations -/

/-- The response of BUILD (41_frame_codec R102). -/
def buildResponse (cfg : Config) (cmd left right seq : Byte) : Response :=
  let f := buildFrame cfg cmd left right seq
  { Response.accepted.memWrite f with crc := some (crc32 (covered f)) }

/-- BUILD (41_frame_codec R102). -/
def execBuild (cmd left right seq : Byte) (s : State) : Host.Outcome State Fault Refusal :=
  .next (s.answer (buildResponse s.cfg cmd left right seq))

/-- The response of PARSE (41_frame_codec R109). -/
def parseResponse (cfg : Config) (len : Byte) (data : Block) : Response :=
  match parseFrame cfg data len with
  | .reject step => .raise .reject step
  | .accept x =>
    { Response.accepted with
      cmd := some x.cmd, left := some x.left, right := some x.right, seq := some x.seq, rsv := some x.rsv, crc := some x.crc }

/-- PARSE (41_frame_codec R109). -/
def execParse (len : Byte) (data : Block) (s : State) : Host.Outcome State Fault Refusal :=
  .next (s.answer (parseResponse s.cfg len data))

end Sys2Proof.Machine
end

