-- ==== Sys2Proof/Machine/EntryPoints.lean ====
section
/-!
DEFINITION. The entry points TX, RX and SEND (43_entry_points).
-/

namespace Sys2Proof.Machine

/-- The response of TX: build, then encrypt; the plaintext frame is not output (R150, R151). -/
def txResponse (cfg : Config) (cmd left right seq : Byte) : Response :=
  match keySetup cfg with
  | .error d => .raise .cipherFail d
  | .ok w => Response.accepted.memWrite (cbc1Encrypt cfg w (buildFrame cfg cmd left right seq))

/-- TX (R151); `SEQ` is neither read nor written. -/
def execTx (cmd left right seq : Byte) (s : State) : Host.Outcome State Fault Refusal :=
  .next (s.answer (txResponse s.cfg cmd left right seq))

/-- The response of RX: size, key setup, decrypt, validate, decode (R153). The reserved bytes and the checksum are not
returned. -/
def rxResponse (cfg : Config) (len : Byte) (data : Block) : Response :=
  match frameOperand len data with
  | none => .raise .reject .size
  | some c =>
    match keySetup cfg with
    | .error d => .raise .cipherFail d
    | .ok w =>
      match validateFrame cfg (cbc1Decrypt cfg w c) with
      | .reject step => .raise .reject step
      | .accept x =>
        { Response.accepted with cmd := some x.cmd, left := some x.left, right := some x.right, seq := some x.seq }

/-- RX (R153). -/
def execRx (len : Byte) (data : Block) (s : State) : Host.Outcome State Fault Refusal :=
  .next (s.answer (rxResponse s.cfg len data))

/-- The response of SEND with the counter value `s` (R155); `seq` is the value used, on CIPHER_FAIL too (R156). -/
def sendResponse (cfg : Config) (s : Byte) (cmd left right : Byte) : Response :=
  match keySetup cfg with
  | .error d => { Response.raise .cipherFail d with seq := some s }
  | .ok w => { Response.accepted.memWrite (cbc1Encrypt cfg w (buildFrame cfg cmd left right s)) with seq := some s }

/-- SEND: `SEQ` is read, then advanced whatever the cipher's outcome (R155, R156; log 12). -/
def execSend (cmd left right : Byte) (s : State) : Host.Outcome State Fault Refusal :=
  .next ((s.writeSeq (nextSeq s.readSeq)).answer (sendResponse s.cfg s.readSeq cmd left right))

end Sys2Proof.Machine
end

