-- ==== Sys2Proof/Machine/Dispatch.lean ====
section
/-!
DEFINITION. One arm per instruction.
-/

namespace Sys2Proof.Machine

/-- The meaning of each instruction (30_encoding R70; the command-byte rows, R64 and R65). -/
def exec (i : Instr) (s : State) : Host.Outcome State Fault Refusal :=
  match i with
  | .crc32 len data => Sys2Proof.Machine.execCrc32 len data s
  | .build cmd left right seq => Sys2Proof.Machine.execBuild cmd left right seq s
  | .parse len data => Sys2Proof.Machine.execParse len data s
  | .encrypt len data => Sys2Proof.Machine.execEncrypt len data s
  | .decrypt len data => Sys2Proof.Machine.execDecrypt len data s
  | .tx cmd left right seq => Sys2Proof.Machine.execTx cmd left right seq s
  | .rx len data => Sys2Proof.Machine.execRx len data s
  | .send cmd left right => Sys2Proof.Machine.execSend cmd left right s
  | .cmdStop => Sys2Proof.Machine.execCmdStop s
  | .cmdForward => Sys2Proof.Machine.execCmdForward s
  | .cmdBackward => Sys2Proof.Machine.execCmdBackward s
  | .cmdLeft => Sys2Proof.Machine.execCmdLeft s
  | .cmdRight => Sys2Proof.Machine.execCmdRight s
  | .cmdSetSpeed => Sys2Proof.Machine.execCmdSetSpeed s
  | .cmdUnknown6To7 b => Sys2Proof.Machine.execCmdUnknown6To7 b s
  | .cmdUnknown8To15 b => Sys2Proof.Machine.execCmdUnknown8To15 b s
  | .cmdUnknown16To31 b => Sys2Proof.Machine.execCmdUnknown16To31 b s
  | .cmdUnknown32To63 b => Sys2Proof.Machine.execCmdUnknown32To63 b s
  | .cmdUnknown64To127 b => Sys2Proof.Machine.execCmdUnknown64To127 b s
  | .cmdUnknown128To255 b => Sys2Proof.Machine.execCmdUnknown128To255 b s

end Sys2Proof.Machine
end

