-- ==== Sys2Proof/Machine/Port.lean ====
section
/-!
DEFINITION. What happens next, and placing an opcode-table word there.
-/

namespace Sys2Proof.Machine

/-- What happens next: one of the two things that can happen to the block (60_exceptions R174); or, while the block waits, a command
byte is looked up in the codec's command map (log 3), or nothing. -/
inductive NextInput where
  | request (req : BitVec 171)
  | reset
  | commandByte (b : Byte)
  | idle
  deriving DecidableEq, Repr

/-- What the block does next is "decided by the next request it is given" (10_state R24), whatever command bytes there are; while it
waits (70_reset R181) a command byte may be looked up (log 3). -/
def State.nextInput (s : State) : NextInput :=
  match s.port with
  | .request req :: _ => .request req
  | .reset :: _ => .reset
  | [] =>
    match s.commandBytes with
    | b :: _ => .commandByte b
    | [] => .idle

/-- A table word put where the next step takes it: a request before all others at the port; a command byte before all others, at a
block that waits (log 5). -/
def State.present (s : State) : TableWord → State
  | .request req => { s with port := .request req :: s.port }
  | .commandByte b => { s with port := [], commandBytes := b :: s.commandBytes }

/-- A row's word, put where the next step takes it. Bits that are no table word are not placed (log 6). -/
def State.presentTableWord (s : State) (nbits w : Nat) : State :=
  match wordOfBytes (tableBytes nbits w) with
  | .ok tw => s.present tw
  | .error _ => s

end Sys2Proof.Machine
end

