-- ==== Sys2Proof/Machine/Step.lean ====
section
/-!
DEFINITION. One step of the machine, and the placing of an opcode-table word for it.
-/

namespace Sys2Proof.Machine

/-- One step. A request is consumed, decoded and performed to completion (00_scope R11, 10_state R24). A reset clears `SEQ`
(70_reset R180). Nothing else can happen to the block (60_exceptions R174). While it waits, a command byte is looked up (log 3); with
nothing there either, it is idle and holds its state (70_reset R181, 60_exceptions R178; log 4). -/
def step (s : State) : Host.Outcome State Fault Refusal :=
  match s.nextInput with
  | .request req => exec (decode (.request req)) s.consume
  | .reset => .next s.consume.resetEvent
  | .commandByte b => exec (decode (.commandByte b)) s.takeCommandByte
  | .idle => .next s

/-- The state whose next step runs the instruction whose table bits are `w` (log 5, log 6). -/
def State.withFetchWord (s : State) (nbits w : Nat) : State := s.presentTableWord nbits w

end Sys2Proof.Machine
end

