-- ==== Sys2Proof/Safety.lean ====
section
/-!
DEFINITION. What counts as a safe run, in the terms the claims use: the machine goes on, and every answer is one the spec allows
(30_encoding R69, R72, R73; 60_exceptions R166, R169).
-/

namespace Sys2Proof.Machine

/-- Which result fields a response carries, in the order of 30_encoding R69. -/
structure Fields where
  crc   : Bool
  cmd   : Bool
  left  : Bool
  right : Bool
  seq   : Bool
  rsv   : Bool
  out   : Bool
  deriving DecidableEq, Repr

/-- The fields a response carries. -/
def Response.fields (r : Response) : Fields where
  crc   := r.crc.isSome
  cmd   := r.cmd.isSome
  left  := r.left.isSome
  right := r.right.isSome
  seq   := r.seq.isSome
  rsv   := r.rsv.isSome
  out   := r.out.isSome

/-- No result field. -/
def noFields : Fields := ⟨false, false, false, false, false, false, false⟩

/-- The fields the column "valid when" of 30_encoding R69 gives an operation's response with a status; a command-byte row has no
response. -/
def allowedFields : Instr → Status → Fields
  | .crc32 _ _, .ok => { noFields with crc := true }
  | .build _ _ _ _, .ok => { noFields with crc := true, out := true }
  | .parse _ _, .ok => ⟨true, true, true, true, true, true, false⟩
  | .encrypt _ _, .ok => { noFields with out := true }
  | .decrypt _ _, .ok => { noFields with out := true }
  | .tx _ _ _ _, .ok => { noFields with out := true }
  | .rx _ _, .ok => ⟨false, true, true, true, true, false, false⟩
  | .send _ _ _, .ok => { noFields with seq := true, out := true }
  | .send _ _ _, .cipherFail => { noFields with seq := true }
  | _, _ => noFields

/-- The outcomes 60_exceptions R169 gives an operation. -/
def allowedOutcomes : Instr → List (Status × Diag)
  | .crc32 len _ => if len.toNat > 16 then [(.reject, .size)] else [(.ok, .none)]
  | .build _ _ _ _ => [(.ok, .none)]
  | .parse len _ =>
    if len.toNat < 16 then [(.reject, .size)]
    else [(.ok, .none), (.reject, .magic), (.reject, .version), (.reject, .checksum)]
  | .encrypt len _ => if len.toNat < 16 then [(.reject, .size)] else [(.ok, .none), (.cipherFail, .keySetup)]
  | .decrypt len _ => if len.toNat < 16 then [(.reject, .size)] else [(.ok, .none), (.cipherFail, .keySetup)]
  | .tx _ _ _ _ => [(.ok, .none), (.cipherFail, .keySetup)]
  | .rx len _ =>
    if len.toNat < 16 then [(.reject, .size)]
    else [(.ok, .none), (.reject, .magic), (.reject, .version), (.reject, .checksum), (.cipherFail, .keySetup)]
  | .send _ _ _ => [(.ok, .none), (.cipherFail, .keySetup)]
  | _ => []

/-- What an instruction may give by the spec: an outcome of R169 with exactly the fields of R69; or, for a command byte, the byte and
its decoded command of 41_frame_codec R106. -/
def Output.answers (i : Instr) : Output → Prop
  | .response r => (r.status, r.diag) ∈ allowedOutcomes i ∧ r.fields = allowedFields i r.status
  | .command e => encode i = .commandByte e.written ∧ e.decoded = decodeCommand e.written

/-- What the spec allows some well-formed instruction to give. -/
def Output.lawful (o : Output) : Prop := ∃ i : Instr, i.wf = true ∧ o.answers i

/-- The invariant of a safe run: every response and every entry given so far is lawful. -/
def State.Inv (s : State) : Prop :=
  (∀ r ∈ s.responses, (Output.response r).lawful) ∧ ∀ e ∈ s.commandEntries, (Output.command e).lawful

/-- The machine goes on from a state: neither a fault nor a refusal (60_exceptions R160). -/
def State.GoesOn (s : State) : Prop := ∃ t, step s = .next t

end Sys2Proof.Machine
end

