-- ==== Sys2Proof/Certificates/Slice0/Obligations.lean ====
section
/-!
DEFINITION. The statements for the provers.

A statement that an operation completes gives the whole next state, so it is the frame as well: a field that the record update
does not name is unchanged. No statement is about memory, because the block has none (20_memory R40).
The port and the responses given are the model's own fields (log 2), and so are the command bytes to look up and the entries found,
which are no part of the block's port (log 3).
-/

open Sys2Proof Sys2Proof.Machine

/-! ## Reset, the port, the step -/

/-- 10_state R30; the four lists, all empty, are the model's own fields (log 2, log 3; R181: the block "waits for a request"). -/
def Obligations.ResetLeavesSequenceCounterZero : Prop :=
  State.reset.seq = 0 ∧ State.reset.port = [] ∧ State.reset.responses = [] ∧
    State.reset.commandBytes = [] ∧ State.reset.commandEntries = []

/-- 70_reset R180: the whole effect of the reset event. That it arrives as an input at the port is the model's choice (log 2, log 13). -/
def Obligations.ResetEventOnlyClearsSequenceCounter : Prop :=
  ∀ (s : State) (rest : List PortInput), s.port = .reset :: rest → step s = .next { s with seq := 0, port := rest }

/-- 60_exceptions R174, 70_reset R181: with neither a request nor a reset at its port nothing happens to the block. Only a command byte
may then be looked up (log 3); with none, the step answers the same state, which is the model's choice (log 4). -/
def Obligations.NothingElseHappensToTheBlock : Prop :=
  ∀ s : State, s.port = [] → ∃ t, step s = .next t ∧
    t.cfg = s.cfg ∧ t.seq = s.seq ∧ t.port = [] ∧ t.responses = s.responses ∧ (s.commandBytes = [] → t = s)

/-- 10_state R24, 00_scope R11, 60_exceptions R174: the next request is consumed, decoded to one of the eight operations and performed,
whatever command bytes there are; a command byte is decoded and looked up while the block waits (log 3). -/
def Obligations.StepRunsDecodedWord : Prop :=
  (∀ (s : State) (v : BitVec 171) (rest : List PortInput), s.port = .request v :: rest →
    (decode (.request v)).isOperation = true ∧ step s = exec (decode (.request v)) { s with port := rest }) ∧
  (∀ (s : State) (b : Byte) (rest : List Byte), s.port = [] → s.commandBytes = b :: rest →
    step s = exec (decode (.commandByte b)) { s with commandBytes := rest })

/-- 60_exceptions R160: no step stops, every request has exactly one response, and the next input is then at hand. -/
def Obligations.EveryRequestHasExactlyOneResponse : Prop :=
  (∀ s : State, ∃ t, step s = .next t) ∧
  (∀ (s : State) (v : BitVec 171) (rest : List PortInput), s.port = .request v :: rest →
    ∃ t r, step s = .next t ∧ t.responses = s.responses ++ [r] ∧ t.port = rest)

/-- 10_state R25, R32; 00_scope R11: the response is a function of the configuration, of `SEQ` and of the one request, and so is
the next value of `SEQ`; nothing else changes. -/
def Obligations.ResponseIsFunctionOfConfigSequenceAndRequest : Prop :=
  ∃ f : Config → Byte → BitVec 171 → Byte × Response,
    ∀ (s : State) (v : BitVec 171) (rest : List PortInput), s.port = .request v :: rest →
      step s = .next { s with
        seq := (f s.cfg s.seq v).1, port := rest, responses := s.responses ++ [(f s.cfg s.seq v).2] }

/-- 00_scope R9, 10_state R29, 70_reset R182: no step writes the configuration or withdraws a response; and no step adds an input of its
own or withdraws an entry (log 2, log 3). -/
def Obligations.StepKeepsConfigurationAndHistory : Prop :=
  ∀ s t : State, step s = .next t →
    t.cfg = s.cfg ∧ s.responses <+: t.responses ∧ s.commandEntries <+: t.commandEntries ∧
    t.port <:+ s.port ∧ t.commandBytes <:+ s.commandBytes

/-- 10_state R21, R23, R30: a reset writes 0 to `SEQ`, a SEND adds one modulo 256, and every other step leaves it. -/
def Obligations.OnlySendAndResetWriteSequenceCounter : Prop :=
  ∀ s t : State, step s = .next t →
    (∃ rest, s.port = .reset :: rest ∧ t.seq = 0) ∨
    (∃ v rest c l r, s.port = .request v :: rest ∧ decode (.request v) = .send c l r ∧
      t.seq.toNat = (s.seq.toNat + 1) % 256) ∨
    ((∀ rest, s.port ≠ .reset :: rest) ∧
      (∀ v rest c l r, s.port = .request v :: rest → decode (.request v) ≠ .send c l r) ∧ t.seq = s.seq)

/-- 10_state R21, 20_memory R48, 70_reset R192: an instruction other than SEND neither reads nor writes `SEQ`: from any two states of
one configuration it gives the same and changes nothing else, so asking twice, or replaying, gives the same. `State.emit` adds what is
given to the list it belongs to and changes nothing else. -/
def Obligations.NonSendAnswersIgnoreSequenceCounter : Prop :=
  ∀ (i : Instr) (s s' : State), (∀ c l r, i ≠ .send c l r) → s.cfg = s'.cfg →
    ∃ o : Output, exec i s = .next (s.emit o) ∧ exec i s' = .next (s'.emit o)

/-- Which requests are SENDs. -/
def isSendRequest (v : BitVec 171) : Bool :=
  match decode (.request v) with
  | .send _ _ _ => true
  | _ => false

/-- 20_memory R50, R51; 10_state R21, R23: any requests at the port are all performed, in order, one response each, and `SEQ` has
advanced by the number of SENDs among them; command bytes are left for later (log 3). -/
def Obligations.RunOfRequestsAdvancesCounterPerSend : Prop :=
  ∀ (vs : List (BitVec 171)) (s : State), s.port = vs.map .request →
    ∃ t, Sys2Proof.core.run vs.length s = .next t ∧ t.port = [] ∧ t.cfg = s.cfg ∧
      t.responses.length = s.responses.length + vs.length ∧ t.commandEntries = s.commandEntries ∧
      t.seq.toNat = (s.seq.toNat + vs.countP isSendRequest) % 256

/-- 20_memory R50 (2): a SEND after any requests, the first of them with `SEQ` at 0, uses the number of earlier SENDs modulo 256 as its
sequence value, and its response says so. -/
def Obligations.NthSendUsesNumberOfEarlierSends : Prop :=
  ∀ (vs : List (BitVec 171)) (v : BitVec 171) (s : State), s.seq = 0 → s.port = (vs ++ [v]).map .request →
    isSendRequest v = true →
    ∃ t rs r q, Sys2Proof.core.run (vs.length + 1) s = .next t ∧ t.responses = rs ++ [r] ∧
      r.seq = some q ∧ q.toNat = vs.countP isSendRequest % 256

/-! ## The invariant -/

/-- 30_encoding R69, 60_exceptions R169: what every well-formed instruction gives has an outcome and exactly the fields the spec's
tables allow it; beside it at most `SEQ` changes. For a command byte it is its entry (log 3). -/
def Obligations.EveryAnswerIsAllowed : Prop :=
  ∀ (i : Instr) (s : State), i.wf = true →
    ∃ (q : Byte) (o : Output), exec i s = .next ({ s with seq := q }.emit o) ∧ o.answers i

/-- 30_encoding R69, 60_exceptions R169: every step keeps the invariant that all responses and entries given so far are lawful. -/
def Obligations.StepKeepsAnswersLawful : Prop :=
  ∀ s t : State, s.Inv → step s = .next t → t.Inv

/-- The invariant holds right after reset. -/
def Obligations.ResetAnswersLawful : Prop := State.reset.Inv

/-! ## Encoding -/

/-- 30_encoding R68, R70, R64, R65: decoding the word of a well-formed instruction gives it back, at every value of every operand. -/
def Obligations.DecodeOfEncodeIsIdentity : Prop :=
  ∀ i : Instr, i.wf = true → decode (encode i) = i

/-- 30_encoding R70, R74: every word decodes to a well-formed instruction, whose own word decodes to it again; a command byte is the
word of its instruction. -/
def Obligations.EveryWordDecodesToWellFormedInstruction : Prop :=
  (∀ w : TableWord, (decode w).wf = true ∧ decode (encode (decode w)) = decode w) ∧
  (∀ b : Byte, encode (decode (.commandByte b)) = .commandByte b)

/-- 30_encoding R68: packing and unpacking undo each other, so no bit of `REQ[170:0]` is lost and no two requests share a word. -/
def Obligations.RequestPackingIsOneToOne : Prop :=
  (∀ r : Request, Request.unpack r.pack = r) ∧ (∀ v : BitVec 171, (Request.unpack v).pack = v)

/-- 30_encoding R71: fields that the selected operation does not use do not matter. The rule is about the response; that the decoder
already drops these fields, so that even the instruction is the same, is the model's choice (log 17). -/
def Obligations.UnusedRequestFieldsAreIgnored : Prop :=
  ∀ r r' : Request, r.op = r'.op →
    (r.op ∈ [0, 2, 3, 4, 6] → r.len = r'.len → r.data = r'.data →
      decode (.request r.pack) = decode (.request r'.pack)) ∧
    (r.op ∈ [1, 5] → r.cmd = r'.cmd → r.left = r'.left → r.right = r'.right → r.seq = r'.seq →
      decode (.request r.pack) = decode (.request r'.pack)) ∧
    (r.op = 7 → r.cmd = r'.cmd → r.left = r'.left → r.right = r'.right →
      decode (.request r.pack) = decode (.request r'.pack))

/-- 30_encoding R78 and 95_test_vectors section 9: words written out there decode to the requests they stand for; 30_encoding R64,
R65: command bytes decode to their rows. -/
def Obligations.SampleWordsDecode : Prop :=
  decode (.request 0x2E46400805) = .tx 1 200 200 5 ∧
  decode (.request 0x646400807) = .send 1 200 200 ∧
  decode (.request 0x38A0504801) = .build 9 10 20 7 ∧
  decode (.request 0x88) = .crc32 17 (Vector.replicate 16 0) ∧
  decode (.request 0x21971CDF57DAC7A47F46631AE7ADAA470000000007E) =
    .rx 15 #v[0x8e, 0x54, 0x5b, 0xcf, 0x35, 0xc6, 0x8c, 0xfe, 0x48, 0x8f, 0xb5, 0xaf, 0xbe, 0x39, 0x2e, 0x43] ∧
  decode (.request 0x314969F00000002E4640080A92A27A48000000007A) =
    .parse 15 #v[0x49, 0x4f, 0x54, 0x52, 0x01, 0x01, 0xc8, 0xc8, 0x05, 0x00, 0x00, 0x00, 0x3e, 0x2d, 0x29, 0x06] ∧
  decode (.commandByte 0b00000101) = .cmdSetSpeed ∧
  decode (.commandByte 0b00001001) = .cmdUnknown8To15 9

/-! ## Command bytes -/

/-- 41_frame_codec R106: the byte of the decoded command is the byte itself up to 5, and 0, Stop, above. -/
def Obligations.DecodeCommandCoercesUnknownToStop : Prop :=
  ∀ b : Byte, (b.toNat ≤ 5 → (decodeCommand b).code = b) ∧ (5 < b.toNat → decodeCommand b = .stop)

/-- 30_encoding R64, 41_frame_codec R103, R106: the six named command bytes, written as they are, decoded to their commands. That a
command byte is looked up by itself is the model's choice (log 3). -/
def Obligations.NamedCommandBytesDecodeToTheirCommands : Prop :=
  ∀ s : State,
    exec .cmdStop s = .next { s with commandEntries := s.commandEntries ++ [⟨0, .stop⟩] } ∧
    exec .cmdForward s = .next { s with commandEntries := s.commandEntries ++ [⟨1, .forward⟩] } ∧
    exec .cmdBackward s = .next { s with commandEntries := s.commandEntries ++ [⟨2, .backward⟩] } ∧
    exec .cmdLeft s = .next { s with commandEntries := s.commandEntries ++ [⟨3, .left⟩] } ∧
    exec .cmdRight s = .next { s with commandEntries := s.commandEntries ++ [⟨4, .right⟩] } ∧
    exec .cmdSetSpeed s = .next { s with commandEntries := s.commandEntries ++ [⟨5, .setSpeed⟩] }

/-- 30_encoding R65, 41_frame_codec R103, R106: every byte of the six unknown rows is written as it is and decoded to Stop. That a
command byte is looked up by itself is the model's choice (log 3). -/
def Obligations.UnknownCommandBytesDecodeToStop : Prop :=
  ∀ (s : State) (b : Byte),
    (b &&& 0xFE = 0x06 → exec (.cmdUnknown6To7 b) s = .next { s with commandEntries := s.commandEntries ++ [⟨b, .stop⟩] }) ∧
    (b &&& 0xF8 = 0x08 → exec (.cmdUnknown8To15 b) s = .next { s with commandEntries := s.commandEntries ++ [⟨b, .stop⟩] }) ∧
    (b &&& 0xF0 = 0x10 → exec (.cmdUnknown16To31 b) s = .next { s with commandEntries := s.commandEntries ++ [⟨b, .stop⟩] }) ∧
    (b &&& 0xE0 = 0x20 → exec (.cmdUnknown32To63 b) s = .next { s with commandEntries := s.commandEntries ++ [⟨b, .stop⟩] }) ∧
    (b &&& 0xC0 = 0x40 → exec (.cmdUnknown64To127 b) s = .next { s with commandEntries := s.commandEntries ++ [⟨b, .stop⟩] }) ∧
    (b &&& 0x80 = 0x80 → exec (.cmdUnknown128To255 b) s = .next { s with commandEntries := s.commandEntries ++ [⟨b, .stop⟩] })

/-- 41_frame_codec R103, R106: what a command byte's row says is what BUILD and PARSE do with it: the byte written is byte 5 of the
built frame, and the command decoded is the one PARSE delivers from that frame. -/
def Obligations.CommandByteRowsAgreeWithCodec : Prop :=
  ∀ (s : State) (b l r q : Byte), ∃ (t t' : State) (f : Block) (c : Command) (rb rp : Response),
    exec (.build b l r q) s = .next t ∧ t.responses = s.responses ++ [rb] ∧ rb.out = some f ∧
    exec (.parse 16 f) s = .next t' ∧ t'.responses = s.responses ++ [rp] ∧ rp.cmd = some c ∧
    exec (decode (.commandByte b)) s = .next { s with commandEntries := s.commandEntries ++ [⟨f[5], c⟩] }

/-! ## CRC-32 -/

/-- 40_integrity R94: CRC32 answers the checksum of the first `len` bytes. -/
def Obligations.Crc32AnswersChecksumOfFirstBytes : Prop :=
  ∀ (s : State) (len : Byte) (data : Block), len.toNat ≤ 16 →
    exec (.crc32 len data) s = .next { s with responses := s.responses ++
      [{ status := .ok, diag := .none, crc := some (crc32 (data.toList.take len.toNat)) }] }

/-- 40_integrity R95: a longer buffer is rejected with diagnostic SIZE, whatever the data. The bound is a choice, which the spec marks
as its own decision D15 (log 10). -/
def Obligations.Crc32RejectsMoreThanSixteenBytes : Prop :=
  ∀ (s : State) (len : Byte) (data : Block), 16 < len.toNat →
    exec (.crc32 len data) s = .next { s with responses := s.responses ++
      [{ status := .reject, diag := .size }] }

/-- 20_memory R41: no response depends on a byte of the buffer at index `len` or above. -/
def Obligations.BytesBeyondLenAreNeverRead : Prop :=
  ∀ (s : State) (len : Byte) (d d' : Block),
    (∀ (i : Nat) (h : i < 16), i < len.toNat → d[i] = d'[i]) →
    exec (.crc32 len d) s = exec (.crc32 len d') s ∧
    exec (.parse len d) s = exec (.parse len d') s ∧
    exec (.encrypt len d) s = exec (.encrypt len d') s ∧
    exec (.decrypt len d) s = exec (.decrypt len d') s ∧
    exec (.rx len d) s = exec (.rx len d') s

/-- 40_integrity R92: the table form gives the same value on every buffer. -/
def Obligations.CrcTableFormAgreesWithBitwiseForm : Prop :=
  ∀ bs : List Byte, crc32ByTable bs = crc32 bs

/-- 40_integrity R96 item 1: linearity over exclusive or for equal lengths. -/
def Obligations.CrcIsLinearForEqualLengths : Prop :=
  ∀ a b : List Byte, a.length = b.length →
    crc32 a ^^^ crc32 b ^^^ crc32 (List.replicate a.length 0) = crc32 (List.zipWith (· ^^^ ·) a b)

/-- 40_integrity R96 item 2: every single-bit change of the input changes the checksum. -/
def Obligations.CrcDetectsEverySingleBitChange : Prop :=
  ∀ (bs : List Byte) (k : Nat) (hk : k < bs.length) (j : Nat), j < 8 →
    crc32 (bs.set k (bs[k] ^^^ (1#8 <<< j))) ≠ crc32 bs

/-- 95_test_vectors section 2: under `CRC_ORDER` = LE the checksum over all 16 bytes of any built frame is one constant. -/
def Obligations.LittleEndianFramesHaveConstantResidue : Prop :=
  ∀ (cfg : Config) (c l r q : Byte), cfg.crcOrder = .le → crc32 (buildFrame cfg c l r q).toList = 0x2144DF1C

/-! ## The frame codec -/

/-- 41_frame_codec R100, 30_encoding R60, R63: BUILD answers a frame with the layout of R60, and its checksum; it changes nothing
else and cannot fail. -/
def Obligations.BuildWritesFrameLayout : Prop :=
  ∀ (s : State) (c l r q : Byte), ∃ (f : Block) (k : Word),
    exec (.build c l r q) s = .next { s with responses := s.responses ++
      [{ status := .ok, diag := .none, out := some f, crc := some k }] } ∧
    k = crc32 (f.toList.take 12) ∧
    f.toList.take 12 = s.cfg.magic.toList ++ [s.cfg.version, c, l, r, q, 0x00, 0x00, 0x00] ∧
    (s.cfg.crcOrder = .le →
      f.toList.drop 12 = [k.extractLsb' 0 8, k.extractLsb' 8 8, k.extractLsb' 16 8, k.extractLsb' 24 8]) ∧
    (s.cfg.crcOrder = .be →
      f.toList.drop 12 = [k.extractLsb' 24 8, k.extractLsb' 16 8, k.extractLsb' 8 8, k.extractLsb' 0 8])

/-- 30_encoding R77, 41_frame_codec R101: stamping a built frame again changes nothing. -/
def Obligations.StampOfBuiltFrameChangesNothing : Prop :=
  ∀ (cfg : Config) (c l r q : Byte), stamp cfg (buildFrame cfg c l r q) = buildFrame cfg c l r q

/-- 41_frame_codec R107, R109: on a frame that passes every check PARSE answers all its fields, the command decoded; the checksum
field is read in the order of `CRC_ORDER` (30_encoding R63). -/
def Obligations.ParseAnswersFieldsOfValidFrame : Prop :=
  ∀ (s : State) (len : Byte) (f : Block) (k : Word), 16 ≤ len.toNat →
    #v[f[0], f[1], f[2], f[3]] = s.cfg.magic → f[4] = s.cfg.version → k = crc32 (f.toList.take 12) →
    (s.cfg.crcOrder = .le → k = f[15] ++ f[14] ++ f[13] ++ f[12]) →
    (s.cfg.crcOrder = .be → k = f[12] ++ f[13] ++ f[14] ++ f[15]) →
    exec (.parse len f) s = .next { s with responses := s.responses ++
      [{ status := .ok, diag := .none, cmd := some (decodeCommand f[5]), left := some f[6], right := some f[7],
         seq := some f[8], rsv := some #v[f[9], f[10], f[11]], crc := some k }] }

/-- 41_frame_codec R107, 60_exceptions R164: the rejections of PARSE, first failing step first. -/
def Obligations.ParseRejectsAtFirstFailingStep : Prop :=
  ∀ (s : State) (len : Byte) (f : Block),
    (len.toNat < 16 →
      exec (.parse len f) s = .next { s with responses := s.responses ++ [{ status := .reject, diag := .size }] }) ∧
    (16 ≤ len.toNat → #v[f[0], f[1], f[2], f[3]] ≠ s.cfg.magic →
      exec (.parse len f) s = .next { s with responses := s.responses ++ [{ status := .reject, diag := .magic }] }) ∧
    (16 ≤ len.toNat → #v[f[0], f[1], f[2], f[3]] = s.cfg.magic → f[4] ≠ s.cfg.version →
      exec (.parse len f) s = .next { s with responses := s.responses ++ [{ status := .reject, diag := .version }] }) ∧
    (16 ≤ len.toNat → #v[f[0], f[1], f[2], f[3]] = s.cfg.magic → f[4] = s.cfg.version →
      storedChecksum s.cfg f ≠ crc32 (f.toList.take 12) →
      exec (.parse len f) s = .next { s with responses := s.responses ++ [{ status := .reject, diag := .checksum }] })

/-- 41_frame_codec R108: the sequence of checks of PARSE and the multiplexer that merges their results give one outcome. -/
def Obligations.ParseAgreesWithMultiplexer : Prop :=
  ∀ (s : State) (len : Byte) (f : Block), ∃ r : Response,
    exec (.parse len f) s = .next { s with responses := s.responses ++ [r] } ∧
    r.status = (frameChecks s.cfg (decide (16 ≤ len.toNat)) true f).status ∧
    r.diag = (frameChecks s.cfg (decide (16 ≤ len.toNat)) true f).diag ∧
    (r.status = .ok → r.cmd = some (decodeCommand f[5])) ∧
    (r.status ≠ .ok → r.fields = noFields)

/-- 41_frame_codec R111: PARSE of a built frame gives back what was built, the command decoded. -/
def Obligations.CodecRoundTrip : Prop :=
  ∀ (s : State) (c l r q : Byte), ∃ (f : Block) (k : Word),
    exec (.build c l r q) s = .next { s with responses := s.responses ++
      [{ status := .ok, diag := .none, out := some f, crc := some k }] } ∧
    k = crc32 (f.toList.take 12) ∧
    exec (.parse 16 f) s = .next { s with responses := s.responses ++
      [{ status := .ok, diag := .none, cmd := some (decodeCommand c), left := some l, right := some r,
         seq := some q, rsv := some #v[0x00, 0x00, 0x00], crc := some k }] }

/-- 41_frame_codec R112: a built frame changed in exactly one bit is rejected: in bytes 0 to 3 by the magic check, in byte 4 by the
version check, in bytes 5 to 15 by the checksum check. -/
def Obligations.SingleBitChangeOfBuiltFrameIsRejected : Prop :=
  ∀ (s : State) (c l r q : Byte) (i : Nat) (hi : i < 16) (j : Nat), j < 8 →
    exec (.parse 16 ((buildFrame s.cfg c l r q).set i ((buildFrame s.cfg c l r q)[i] ^^^ (1#8 <<< j)))) s =
      .next { s with responses := s.responses ++
        [{ status := .reject, diag := if i < 4 then .magic else if i = 4 then .version else .checksum }] }

/-- 30_encoding R62, R66: whatever the reserved bytes, a frame with the right magic and version whose checksum was computed over its
own bytes is accepted, and they are returned. -/
def Obligations.ReservedBytesAreIgnoredOnParse : Prop :=
  ∀ (s : State) (f : Block), #v[f[0], f[1], f[2], f[3]] = s.cfg.magic → f[4] = s.cfg.version →
    exec (.parse 16 (stamp s.cfg f)) s = .next { s with responses := s.responses ++
      [{ status := .ok, diag := .none, cmd := some (decodeCommand f[5]), left := some f[6], right := some f[7],
         seq := some f[8], rsv := some #v[f[9], f[10], f[11]], crc := some (crc32 (f.toList.take 12)) }] }

/-! ## AES-256 and the single-block CBC step -/

/-- 42_confidentiality R123: every entry of the table is the affine image of the multiplicative inverse of its index. -/
def Obligations.SboxFollowsInverseAndAffineMap : Prop :=
  ∀ a : Byte, ∃ v : Byte, (a = 0 → v = 0) ∧ (a ≠ 0 → gmul a v = 1) ∧
    sbox a = v ^^^ v.rotateLeft 1 ^^^ v.rotateLeft 2 ^^^ v.rotateLeft 3 ^^^ v.rotateLeft 4 ^^^ 0x63

/-- 42_confidentiality R126, R121: row `r` is rotated left by `r` columns, and back by the inverse. -/
def Obligations.ShiftRowsRotatesRowByItsNumber : Prop :=
  ∀ (t : Block) (r c : Nat) (hr : r < 4) (hc : c < 4),
    (shiftRows t)[r + 4 * c] = t[r + 4 * ((c + r) % 4)] ∧ (invShiftRows t)[r + 4 * ((c + r) % 4)] = t[r + 4 * c]

/-- 42_confidentiality R131 and R130, for the 256-bit keys of this hardware: the key schedule has 60 words; the first eight are the key;
each later one is the word eight before it, exclusive or the previous word transformed; the round constants are the powers of x. -/
def Obligations.KeyScheduleFollowsRecurrence : Prop :=
  (rcon 1 = 1 ∧ ∀ j, 1 ≤ j → rcon (j + 1) = xtime (rcon j)) ∧
  ∀ key : List Byte, key.length = 32 →
    (keyExpansion 8 14 key).length = 60 ∧
    (∀ i, i < 8 → (keyExpansion 8 14 key)[i]? =
      some #v[key.getD (4 * i) 0, key.getD (4 * i + 1) 0, key.getD (4 * i + 2) 0, key.getD (4 * i + 3) 0]) ∧
    (∀ i, 8 ≤ i → i < 60 → ∃ w8 w1 : Quad,
      (keyExpansion 8 14 key)[i - 8]? = some w8 ∧ (keyExpansion 8 14 key)[i - 1]? = some w1 ∧
      (keyExpansion 8 14 key)[i]? = some (xorQuad w8
        (if i % 8 = 0 then #v[sbox w1[1] ^^^ rcon (i / 8), sbox w1[2], sbox w1[3], sbox w1[0]]
          else if i % 8 = 4 then #v[sbox w1[0], sbox w1[1], sbox w1[2], sbox w1[3]]
          else w1)))

/-- 42_confidentiality R135: the cipher and the inverse cipher undo each other, under every key schedule. -/
def Obligations.AesCipherAndInverseUndoEachOther : Prop :=
  ∀ (w : List Quad) (b : Block),
    aesDecryptBlock 14 w (aesEncryptBlock 14 w b) = b ∧ aesEncryptBlock 14 w (aesDecryptBlock 14 w b) = b

/-- 42_confidentiality R137, R140: ENCRYPT answers the block cipher of the input exclusive or the IV. -/
def Obligations.EncryptAnswersOneCbcBlock : Prop :=
  ∀ (s : State) (len : Byte) (p : Block), 16 ≤ len.toNat → s.cfg.key.length = 32 →
    exec (.encrypt len p) s = .next { s with responses := s.responses ++
      [{ status := .ok, diag := .none,
         out := some (aesEncryptBlock 14 (keyExpansion 8 14 s.cfg.key) (Vector.ofFn fun i : Fin 16 => p[i] ^^^ s.cfg.iv[i])) }] }

/-- 42_confidentiality R138, R141: DECRYPT answers the deciphered block exclusive or the IV; the content of the ciphertext cannot make
it fail. -/
def Obligations.DecryptAnswersOneCbcBlock : Prop :=
  ∀ (s : State) (len : Byte) (c : Block), 16 ≤ len.toNat → s.cfg.key.length = 32 →
    exec (.decrypt len c) s = .next { s with responses := s.responses ++
      [{ status := .ok, diag := .none,
         out := some (Vector.ofFn fun i : Fin 16 =>
           (aesDecryptBlock 14 (keyExpansion 8 14 s.cfg.key) c)[i] ^^^ s.cfg.iv[i]) }] }

/-- 42_confidentiality R143, R142: with a well-formed key DECRYPT undoes ENCRYPT and ENCRYPT undoes DECRYPT, on every block. -/
def Obligations.EncryptAndDecryptUndoEachOther : Prop :=
  ∀ (s : State) (b : Block), s.cfg.key.length = 32 →
    (∃ x : Block,
      exec (.encrypt 16 b) s = .next { s with responses := s.responses ++
        [{ status := .ok, diag := .none, out := some x }] } ∧
      exec (.decrypt 16 x) s = .next { s with responses := s.responses ++
        [{ status := .ok, diag := .none, out := some b }] }) ∧
    (∃ y : Block,
      exec (.decrypt 16 b) s = .next { s with responses := s.responses ++
        [{ status := .ok, diag := .none, out := some y }] } ∧
      exec (.encrypt 16 y) s = .next { s with responses := s.responses ++
        [{ status := .ok, diag := .none, out := some b }] })

/-- 42_confidentiality R142: equal plaintexts give equal ciphertexts and different plaintexts different ones, whenever the two are
encrypted. -/
def Obligations.CiphertextsAreEqualExactlyWhenPlaintextsAre : Prop :=
  ∀ (s s' : State) (p p' : Block), s.cfg = s'.cfg → s.cfg.key.length = 32 →
    ∃ x x' : Block, (x = x' ↔ p = p') ∧
      exec (.encrypt 16 p) s = .next { s with responses := s.responses ++
        [{ status := .ok, diag := .none, out := some x }] } ∧
      exec (.encrypt 16 p') s' = .next { s' with responses := s'.responses ++
        [{ status := .ok, diag := .none, out := some x' }] }

/-- 60_exceptions R163: a short buffer is rejected before the key is looked at, whatever the key and whatever the data. -/
def Obligations.ShortBufferIsRejectedBeforeCryptography : Prop :=
  ∀ (s : State) (len : Byte) (data : Block), len.toNat < 16 →
    ∀ i ∈ [Instr.parse len data, .encrypt len data, .decrypt len data, .rx len data],
      exec i s = .next { s with responses := s.responses ++ [{ status := .reject, diag := .size }] }

/-- 42_confidentiality R136, R145; 60_exceptions R165: with a key that is not 32 bytes long every cipher operation whose buffer is long
enough answers CIPHER_FAIL and no result; SEND has still advanced `SEQ` and answers the value used (43_entry_points R156, log 12). That
malformed means a length other than 32 is a choice, which the spec marks as its own decision D10 (log 8). -/
def Obligations.MalformedKeyFailsEveryCipherOperation : Prop :=
  ∀ (s : State) (len : Byte) (data : Block) (c l r q : Byte), s.cfg.key.length ≠ 32 →
    (16 ≤ len.toNat → ∀ i ∈ [Instr.encrypt len data, .decrypt len data, .rx len data],
      exec i s = .next { s with responses := s.responses ++ [{ status := .cipherFail, diag := .keySetup }] }) ∧
    exec (.tx c l r q) s = .next { s with responses := s.responses ++ [{ status := .cipherFail, diag := .keySetup }] } ∧
    exec (.send c l r) s = .next { s with
      seq := BitVec.ofNat 8 ((s.seq.toNat + 1) % 256)
      responses := s.responses ++ [{ status := .cipherFail, diag := .keySetup, seq := some s.seq }] }

/-- 20_memory R47: more than 16 bytes are treated as 16 by the frame operations, and rejected by CRC32. Both are choices, which the spec
marks as its own decisions D14 and D15 (log 10). -/
def Obligations.OverlongBufferIsTreatedAsSixteenBytes : Prop :=
  ∀ (s : State) (len : Byte) (data : Block), 16 < len.toNat →
    exec (.parse len data) s = exec (.parse 16 data) s ∧
    exec (.encrypt len data) s = exec (.encrypt 16 data) s ∧
    exec (.decrypt len data) s = exec (.decrypt 16 data) s ∧
    exec (.rx len data) s = exec (.rx 16 data) s ∧
    exec (.crc32 len data) s = .next { s with responses := s.responses ++ [{ status := .reject, diag := .size }] }

/-! ## The entry points -/

/-- 43_entry_points R152: TX equals BUILD followed by ENCRYPT. -/
def Obligations.TxEqualsBuildThenEncrypt : Prop :=
  ∀ (s : State) (c l r q : Byte), s.cfg.key.length = 32 → ∃ (f x : Block) (k : Word),
    exec (.build c l r q) s = .next { s with responses := s.responses ++
      [{ status := .ok, diag := .none, out := some f, crc := some k }] } ∧
    exec (.encrypt 16 f) s = .next { s with responses := s.responses ++
      [{ status := .ok, diag := .none, out := some x }] } ∧
    exec (.tx c l r q) s = .next { s with responses := s.responses ++
      [{ status := .ok, diag := .none, out := some x }] }

/-- 43_entry_points R154: RX equals DECRYPT followed by PARSE, in status, command, speeds and sequence. -/
def Obligations.RxEqualsDecryptThenParse : Prop :=
  ∀ (s : State) (len : Byte) (d : Block), 16 ≤ len.toNat → s.cfg.key.length = 32 →
    ∃ (p : Block) (rp rx : Response),
      exec (.decrypt len d) s = .next { s with responses := s.responses ++
        [{ status := .ok, diag := .none, out := some p }] } ∧
      exec (.parse 16 p) s = .next { s with responses := s.responses ++ [rp] } ∧
      exec (.rx len d) s = .next { s with responses := s.responses ++ [rx] } ∧
      rx.status = rp.status ∧ rx.cmd = rp.cmd ∧ rx.left = rp.left ∧ rx.right = rp.right ∧ rx.seq = rp.seq

/-- 43_entry_points R153: RX of a buffer whose decrypted bytes pass every check answers command, speeds and sequence, and neither the
reserved bytes nor the checksum nor the plaintext. -/
def Obligations.RxAnswersCommandOfValidCiphertext : Prop :=
  ∀ (s : State) (len : Byte) (d f : Block), 16 ≤ len.toNat → s.cfg.key.length = 32 →
    f = cbc1Decrypt s.cfg (keyExpansion 8 14 s.cfg.key) d →
    #v[f[0], f[1], f[2], f[3]] = s.cfg.magic → f[4] = s.cfg.version →
    storedChecksum s.cfg f = crc32 (f.toList.take 12) →
    exec (.rx len d) s = .next { s with responses := s.responses ++
      [{ status := .ok, diag := .none, cmd := some (decodeCommand f[5]), left := some f[6], right := some f[7],
         seq := some f[8] }] }

/-- 43_entry_points R153, 60_exceptions R164: the outcome of RX is that of the multiplexer with the cipher's outcome as an input: size,
key setup, magic, version, checksum, first failure first. -/
def Obligations.RxAgreesWithMultiplexer : Prop :=
  ∀ (s : State) (len : Byte) (d : Block), ∃ r : Response,
    exec (.rx len d) s = .next { s with responses := s.responses ++ [r] } ∧
    r.status = (frameChecks s.cfg (decide (16 ≤ len.toNat)) (decide (s.cfg.key.length = 32))
      (cbc1Decrypt s.cfg (keyExpansion 8 14 s.cfg.key) d)).status ∧
    r.diag = (frameChecks s.cfg (decide (16 ≤ len.toNat)) (decide (s.cfg.key.length = 32))
      (cbc1Decrypt s.cfg (keyExpansion 8 14 s.cfg.key) d)).diag ∧
    (r.status ≠ .ok → r.fields = noFields)

/-- 43_entry_points R155: SEND builds with the current `SEQ`, encrypts, answers the value used, and `SEQ` advances by one modulo 256. -/
def Obligations.SendUsesAndAdvancesSequenceCounter : Prop :=
  ∀ (s : State) (c l r : Byte), s.cfg.key.length = 32 →
    exec (.send c l r) s = .next { s with
      seq := BitVec.ofNat 8 ((s.seq.toNat + 1) % 256)
      responses := s.responses ++ [{ status := .ok, diag := .none, seq := some s.seq,
                                     out := some (cbc1Encrypt s.cfg (keyExpansion 8 14 s.cfg.key) (buildFrame s.cfg c l r s.seq)) }] }

/-- 43_entry_points R156: a SEND that ends in CIPHER_FAIL has still advanced `SEQ`, and its response carries the value consumed and
no `out`. It is a choice, which the spec marks as its own decision D18 (log 12), and so is what makes the key malformed (log 8). -/
def Obligations.FailedSendAdvancesSequenceCounter : Prop :=
  ∀ (s : State) (c l r : Byte), s.cfg.key.length ≠ 32 →
    exec (.send c l r) s = .next { s with
      seq := BitVec.ofNat 8 ((s.seq.toNat + 1) % 256)
      responses := s.responses ++ [{ status := .cipherFail, diag := .keySetup, seq := some s.seq, out := none }] }

/-- 43_entry_points R157: SEND equals TX with `SEQ` as its sequence operand, plus the increment, whatever the key. -/
def Obligations.SendEqualsTxWithCounterPlusIncrement : Prop :=
  ∀ (s : State) (c l r : Byte), ∃ rt rs : Response,
    exec (.tx c l r s.seq) s = .next { s with responses := s.responses ++ [rt] } ∧
    exec (.send c l r) s = .next { s with seq := s.seq + 1, responses := s.responses ++ [rs] } ∧
    rs.status = rt.status ∧ rs.out = rt.out

/-- 43_entry_points R158: what a receiver of the same configuration gets from the sender's ciphertext is what was sent, the command
decoded; the two blocks share nothing else. -/
def Obligations.LinkRoundTrip : Prop :=
  ∀ (sender receiver : State) (c l r q : Byte), sender.cfg = receiver.cfg → sender.cfg.key.length = 32 →
    ∃ x : Block,
      exec (.tx c l r q) sender = .next { sender with responses := sender.responses ++
        [{ status := .ok, diag := .none, out := some x }] } ∧
      exec (.rx 16 x) receiver = .next { receiver with responses := receiver.responses ++
        [{ status := .ok, diag := .none, cmd := some (decodeCommand c), left := some l, right := some r,
           seq := some q }] }

/-- 70_reset R185: a receiver that differs only in `MAGIC`, only in `VERSION`, or only in `CRC_ORDER`, rejects every frame of the sender;
in the last case, except frames whose checksum reads the same in both orders. -/
def Obligations.ReceiverOfOtherConfigurationRejects : Prop :=
  ∀ (sender receiver : State) (c l r q : Byte), sender.cfg.key.length = 32 →
    ((∃ m, m ≠ sender.cfg.magic ∧ receiver.cfg = { sender.cfg with magic := m }) ∨
      (∃ v, v ≠ sender.cfg.version ∧ receiver.cfg = { sender.cfg with version := v }) ∨
      (∃ o, o ≠ sender.cfg.crcOrder ∧ receiver.cfg = { sender.cfg with crcOrder := o } ∧
        fromLe32 (checksumField (buildFrame sender.cfg c l r q)) ≠ fromBe32 (checksumField (buildFrame sender.cfg c l r q)))) →
    ∃ (x : Block) (rr : Response),
      exec (.tx c l r q) sender = .next { sender with responses := sender.responses ++
        [{ status := .ok, diag := .none, out := some x }] } ∧
      exec (.rx 16 x) receiver = .next { receiver with responses := receiver.responses ++ [rr] } ∧
      rr.status = .reject

/-! ## Failures -/

/-- 60_exceptions R166: a failed response carries no result, but for the `seq` of a SEND; no failure writes state, but for that SEND's
`SEQ`. -/
def Obligations.FailureCarriesNoResultAndWritesNoState : Prop :=
  ∀ (i : Instr) (s t : State) (r : Response), exec i s = .next t → t.responses = s.responses ++ [r] → r.status ≠ .ok →
    r.crc = none ∧ r.cmd = none ∧ r.left = none ∧ r.right = none ∧ r.rsv = none ∧ r.out = none ∧
    ((∀ c l q, i ≠ .send c l q) → r.seq = none ∧ t = { s with responses := s.responses ++ [r] })

/-- 60_exceptions R166, 30_encoding R69: on pins, whatever the other fields are, an absent field reads as zero and a present one as its
value: a command as its byte (R64), byte `i` of a buffer at bits `8i+7:8i`. Status and diagnostic are always there. -/
def Obligations.FieldsReadOnPins : Prop :=
  ∀ r : Response,
    (r.pins.status = r.status.code ∧ r.pins.diag = r.diag.code) ∧
    (r.crc = none → r.pins.crc = 0) ∧ (∀ v, r.crc = some v → r.pins.crc = v) ∧
    (r.cmd = none → r.pins.cmd = 0) ∧ (∀ c, r.cmd = some c → r.pins.cmd = c.code) ∧
    (r.left = none → r.pins.left = 0) ∧ (∀ v, r.left = some v → r.pins.left = v) ∧
    (r.right = none → r.pins.right = 0) ∧ (∀ v, r.right = some v → r.pins.right = v) ∧
    (r.seq = none → r.pins.seq = 0) ∧ (∀ v, r.seq = some v → r.pins.seq = v) ∧
    (r.rsv = none → r.pins.rsv = 0) ∧
    (∀ v, r.rsv = some v → ∀ (j : Nat) (hj : j < 3), r.pins.rsv.extractLsb' (8 * j) 8 = v[j]) ∧
    (r.out = none → r.pins.out = 0) ∧
    (∀ b, r.out = some b → ∀ (i : Nat) (hi : i < 16), r.pins.out.extractLsb' (8 * i) 8 = b[i])
end

