-- ==== Sys2Proof/Laws/Cipher.lean ====
section
/-!
SUPPORT. Each step of the inverse cipher undoes the matching step of the cipher, and the other way round (42_confidentiality R124,
R126, R128, R129).
-/

namespace Sys2Proof.Machine

/-! ## Substitution and permutation -/

theorem invSbox_sbox : ∀ a : Byte, invSbox (sbox a) = a := by decide +kernel

theorem sbox_invSbox : ∀ a : Byte, sbox (invSbox a) = a := by decide +kernel

@[simp] theorem invSubBytes_subBytes (t : Block) : invSubBytes (subBytes t) = t := by
  ext i hi : 1
  simp [invSubBytes, subBytes, invSbox_sbox]

@[simp] theorem subBytes_invSubBytes (t : Block) : subBytes (invSubBytes t) = t := by
  ext i hi : 1
  simp [invSubBytes, subBytes, sbox_invSbox]

theorem shiftIndex_invShiftIndex : ∀ i : Fin 16, shiftIndex[invShiftIndex[i]] = i := by decide

theorem invShiftIndex_shiftIndex : ∀ i : Fin 16, invShiftIndex[shiftIndex[i]] = i := by decide

@[simp] theorem invShiftRows_shiftRows (t : Block) : invShiftRows (shiftRows t) = t := by
  ext i hi : 1
  have := congrArg (fun k : Fin 16 => t[k]) (shiftIndex_invShiftIndex ⟨i, hi⟩)
  simpa [invShiftRows, shiftRows] using this

@[simp] theorem shiftRows_invShiftRows (t : Block) : shiftRows (invShiftRows t) = t := by
  ext i hi : 1
  have := congrArg (fun k : Fin 16 => t[k]) (invShiftIndex_shiftIndex ⟨i, hi⟩)
  simpa [invShiftRows, shiftRows] using this

/-! ## Exclusive or -/

@[simp] theorem xorBlock_xorBlock (a b : Block) : xorBlock (xorBlock a b) b = a := by
  ext i hi : 1
  simp [xorBlock]

@[simp] theorem addRoundKey_addRoundKey (t : Block) (w : List Quad) (k : Nat) :
    addRoundKey (addRoundKey t w k) w k = t := xorBlock_xorBlock _ _

/-! ## The columns -/

theorem xtime_xor : ∀ a b : Byte, xtime (a ^^^ b) = xtime a ^^^ xtime b := by
  intro a b
  unfold xtime
  rw [BitVec.getLsbD_xor, BitVec.shiftLeft_xor_distrib]
  generalize a <<< 1 = x, b <<< 1 = y, (0x1B : Byte) = p
  cases a.getLsbD 7 <;> cases b.getLsbD 7 <;> ext i hi <;> simp <;> cases x[i] <;> cases y[i] <;> cases p[i] <;> rfl

theorem gmulLoop_xor (n i : Nat) (a b c p q : Byte) :
    gmulLoop n i (a ^^^ b) c (p ^^^ q) = gmulLoop n i a c p ^^^ gmulLoop n i b c q := by
  induction n generalizing i a b p q with
  | zero => rfl
  | succ n ih =>
    rw [gmulLoop, gmulLoop, gmulLoop, xtime_xor]
    cases c.getLsbD i
    · exact ih ..
    · have : p ^^^ q ^^^ (a ^^^ b) = (p ^^^ a) ^^^ (q ^^^ b) := by ac_rfl
      simp only [if_true, this]
      exact ih ..

/-- Multiplication distributes over exclusive or. -/
theorem gmul_xor (a b c : Byte) : gmul (a ^^^ b) c = gmul a c ^^^ gmul b c := gmulLoop_xor 8 0 a b c 0 0

/-- Sixteen bytes added by rows or by columns. -/
theorem xor_transpose (p0 q0 r0 s0 p1 q1 r1 s1 p2 q2 r2 s2 p3 q3 r3 s3 : Byte) :
    (p0 ^^^ q0 ^^^ r0 ^^^ s0) ^^^ (p1 ^^^ q1 ^^^ r1 ^^^ s1) ^^^ (p2 ^^^ q2 ^^^ r2 ^^^ s2) ^^^ (p3 ^^^ q3 ^^^ r3 ^^^ s3) =
      (p0 ^^^ p1 ^^^ p2 ^^^ p3) ^^^ (q0 ^^^ q1 ^^^ q2 ^^^ q3) ^^^ (r0 ^^^ r1 ^^^ r2 ^^^ r3) ^^^
        (s0 ^^^ s1 ^^^ s2 ^^^ s3) := by
  ac_rfl

/-- The products of the rows of `InvMixColumns` with the columns of `MixColumns`: 1 on the diagonal, 0 elsewhere. -/
theorem invMix_mix_products : ∀ a : Byte,
    (gmul (gmul a 2) 0x0e ^^^ gmul a 0x0b ^^^ gmul a 0x0d ^^^ gmul (gmul a 3) 0x09 = a ∧
      gmul (gmul a 3) 0x0e ^^^ gmul (gmul a 2) 0x0b ^^^ gmul a 0x0d ^^^ gmul a 0x09 = 0 ∧
      gmul a 0x0e ^^^ gmul (gmul a 3) 0x0b ^^^ gmul (gmul a 2) 0x0d ^^^ gmul a 0x09 = 0 ∧
      gmul a 0x0e ^^^ gmul a 0x0b ^^^ gmul (gmul a 3) 0x0d ^^^ gmul (gmul a 2) 0x09 = 0) := by
  decide +kernel

/-- The products of the rows of `MixColumns` with the columns of `InvMixColumns`. -/
theorem mix_invMix_products : ∀ a : Byte,
    (gmul (gmul a 0x0e) 2 ^^^ gmul (gmul a 0x09) 3 ^^^ gmul a 0x0d ^^^ gmul a 0x0b = a ∧
      gmul (gmul a 0x0b) 2 ^^^ gmul (gmul a 0x0e) 3 ^^^ gmul a 0x09 ^^^ gmul a 0x0d = 0 ∧
      gmul (gmul a 0x0d) 2 ^^^ gmul (gmul a 0x0b) 3 ^^^ gmul a 0x0e ^^^ gmul a 0x09 = 0 ∧
      gmul (gmul a 0x09) 2 ^^^ gmul (gmul a 0x0d) 3 ^^^ gmul a 0x0b ^^^ gmul a 0x0e = 0) := by
  decide +kernel

/-- The first row of `InvMixColumns` after `MixColumns`; the other rows are this one with the bytes rotated. -/
theorem invMix_row (a b c d : Byte) :
    gmul (gmul a 2 ^^^ gmul b 3 ^^^ c ^^^ d) 0x0e ^^^ gmul (a ^^^ gmul b 2 ^^^ gmul c 3 ^^^ d) 0x0b ^^^
        gmul (a ^^^ b ^^^ gmul c 2 ^^^ gmul d 3) 0x0d ^^^ gmul (gmul a 3 ^^^ b ^^^ c ^^^ gmul d 2) 0x09 = a := by
  simp only [gmul_xor]
  rw [xor_transpose, (invMix_mix_products a).1, (invMix_mix_products b).2.1, (invMix_mix_products c).2.2.1,
    (invMix_mix_products d).2.2.2]
  simp

/-- The first row of `MixColumns` after `InvMixColumns`. -/
theorem mix_row (a b c d : Byte) :
    gmul (gmul a 0x0e ^^^ gmul b 0x0b ^^^ gmul c 0x0d ^^^ gmul d 0x09) 2 ^^^
        gmul (gmul a 0x09 ^^^ gmul b 0x0e ^^^ gmul c 0x0b ^^^ gmul d 0x0d) 3 ^^^
        (gmul a 0x0d ^^^ gmul b 0x09 ^^^ gmul c 0x0e ^^^ gmul d 0x0b) ^^^
        (gmul a 0x0b ^^^ gmul b 0x0d ^^^ gmul c 0x09 ^^^ gmul d 0x0e) = a := by
  simp only [gmul_xor]
  rw [xor_transpose, (mix_invMix_products a).1, (mix_invMix_products b).2.1, (mix_invMix_products c).2.2.1,
    (mix_invMix_products d).2.2.2]
  simp

theorem quad_congr {a b c d a' b' c' d' : Byte} (ha : a = a') (hb : b = b') (hc : c = c') (hd : d = d') :
    (#v[a, b, c, d] : Quad) = #v[a', b', c', d'] := by
  rw [ha, hb, hc, hd]

/-- One column through `MixColumns` and back. -/
theorem invMixColumn_mixColumn (a0 a1 a2 a3 : Byte) :
    invMixColumn (mixColumn a0 a1 a2 a3)[0] (mixColumn a0 a1 a2 a3)[1] (mixColumn a0 a1 a2 a3)[2] (mixColumn a0 a1 a2 a3)[3] =
      #v[a0, a1, a2, a3] := by
  apply quad_congr
  · exact invMix_row a0 a1 a2 a3
  · refine Eq.trans ?_ (invMix_row a1 a2 a3 a0)
    change gmul (gmul a0 2 ^^^ gmul a1 3 ^^^ a2 ^^^ a3) 9 ^^^ gmul (a0 ^^^ gmul a1 2 ^^^ gmul a2 3 ^^^ a3) 14 ^^^
      gmul (a0 ^^^ a1 ^^^ gmul a2 2 ^^^ gmul a3 3) 11 ^^^ gmul (gmul a0 3 ^^^ a1 ^^^ a2 ^^^ gmul a3 2) 13 = _
    ac_nf
  · refine Eq.trans ?_ (invMix_row a2 a3 a0 a1)
    change gmul (gmul a0 2 ^^^ gmul a1 3 ^^^ a2 ^^^ a3) 13 ^^^ gmul (a0 ^^^ gmul a1 2 ^^^ gmul a2 3 ^^^ a3) 9 ^^^
      gmul (a0 ^^^ a1 ^^^ gmul a2 2 ^^^ gmul a3 3) 14 ^^^ gmul (gmul a0 3 ^^^ a1 ^^^ a2 ^^^ gmul a3 2) 11 = _
    ac_nf
  · refine Eq.trans ?_ (invMix_row a3 a0 a1 a2)
    change gmul (gmul a0 2 ^^^ gmul a1 3 ^^^ a2 ^^^ a3) 11 ^^^ gmul (a0 ^^^ gmul a1 2 ^^^ gmul a2 3 ^^^ a3) 13 ^^^
      gmul (a0 ^^^ a1 ^^^ gmul a2 2 ^^^ gmul a3 3) 9 ^^^ gmul (gmul a0 3 ^^^ a1 ^^^ a2 ^^^ gmul a3 2) 14 = _
    ac_nf

/-- One column through `InvMixColumns` and back. -/
theorem mixColumn_invMixColumn (a0 a1 a2 a3 : Byte) :
    mixColumn (invMixColumn a0 a1 a2 a3)[0] (invMixColumn a0 a1 a2 a3)[1] (invMixColumn a0 a1 a2 a3)[2]
        (invMixColumn a0 a1 a2 a3)[3] =
      #v[a0, a1, a2, a3] := by
  apply quad_congr
  · exact mix_row a0 a1 a2 a3
  · refine Eq.trans ?_ (mix_row a1 a2 a3 a0)
    change (gmul a0 14 ^^^ gmul a1 11 ^^^ gmul a2 13 ^^^ gmul a3 9) ^^^
      gmul (gmul a0 9 ^^^ gmul a1 14 ^^^ gmul a2 11 ^^^ gmul a3 13) 2 ^^^
      gmul (gmul a0 13 ^^^ gmul a1 9 ^^^ gmul a2 14 ^^^ gmul a3 11) 3 ^^^
      (gmul a0 11 ^^^ gmul a1 13 ^^^ gmul a2 9 ^^^ gmul a3 14) = _
    simp only [gmul_xor]
    ac_rfl
  · refine Eq.trans ?_ (mix_row a2 a3 a0 a1)
    change (gmul a0 14 ^^^ gmul a1 11 ^^^ gmul a2 13 ^^^ gmul a3 9) ^^^
      (gmul a0 9 ^^^ gmul a1 14 ^^^ gmul a2 11 ^^^ gmul a3 13) ^^^
      gmul (gmul a0 13 ^^^ gmul a1 9 ^^^ gmul a2 14 ^^^ gmul a3 11) 2 ^^^
      gmul (gmul a0 11 ^^^ gmul a1 13 ^^^ gmul a2 9 ^^^ gmul a3 14) 3 = _
    simp only [gmul_xor]
    ac_rfl
  · refine Eq.trans ?_ (mix_row a3 a0 a1 a2)
    change gmul (gmul a0 14 ^^^ gmul a1 11 ^^^ gmul a2 13 ^^^ gmul a3 9) 3 ^^^
      (gmul a0 9 ^^^ gmul a1 14 ^^^ gmul a2 11 ^^^ gmul a3 13) ^^^
      (gmul a0 13 ^^^ gmul a1 9 ^^^ gmul a2 14 ^^^ gmul a3 11) ^^^
      gmul (gmul a0 11 ^^^ gmul a1 13 ^^^ gmul a2 9 ^^^ gmul a3 14) 2 = _
    simp only [gmul_xor]
    ac_rfl

/-- A column map undoes another when it does so on one column. -/
theorem mapColumns_mapColumns {f g : Byte → Byte → Byte → Byte → Quad}
    (h : ∀ a0 a1 a2 a3, g (f a0 a1 a2 a3)[0] (f a0 a1 a2 a3)[1] (f a0 a1 a2 a3)[2] (f a0 a1 a2 a3)[3] = #v[a0, a1, a2, a3])
    (t : Block) : mapColumns g (mapColumns f t) = t := by
  ext i hi : 1
  simp only [mapColumns, Vector.getElem_ofFn]
  interval_cases i
  all_goals first
    | exact congrArg (fun q : Quad => q[0]) (h _ _ _ _)
    | exact congrArg (fun q : Quad => q[1]) (h _ _ _ _)
    | exact congrArg (fun q : Quad => q[2]) (h _ _ _ _)
    | exact congrArg (fun q : Quad => q[3]) (h _ _ _ _)

@[simp] theorem invMixColumns_mixColumns (t : Block) : invMixColumns (mixColumns t) = t :=
  mapColumns_mapColumns invMixColumn_mixColumn t

@[simp] theorem mixColumns_invMixColumns (t : Block) : mixColumns (invMixColumns t) = t :=
  mapColumns_mapColumns mixColumn_invMixColumn t

end Sys2Proof.Machine
end

