-- ==== Sys2Proof/Laws/State.lean ====
section
/-!
SUPPORT. One lemma per field per update of the state, and the lemmas of the response builders, nearly all true by rfl.
-/

namespace Sys2Proof.Machine

section Updates
variable (s : State) (o : Output) (r : Response) (e : CommandEntry) (v b : Byte) (q : BitVec 171)

@[simp] theorem State.emit_response_cfg : (s.emit (.response r)).cfg = s.cfg := rfl
@[simp] theorem State.emit_response_seq : (s.emit (.response r)).seq = s.seq := rfl
@[simp] theorem State.emit_response_port : (s.emit (.response r)).port = s.port := rfl
@[simp] theorem State.emit_response_responses : (s.emit (.response r)).responses = s.responses ++ [r] := rfl
@[simp] theorem State.emit_response_commandBytes : (s.emit (.response r)).commandBytes = s.commandBytes := rfl
@[simp] theorem State.emit_response_commandEntries : (s.emit (.response r)).commandEntries = s.commandEntries := rfl

@[simp] theorem State.emit_command_cfg : (s.emit (.command e)).cfg = s.cfg := rfl
@[simp] theorem State.emit_command_seq : (s.emit (.command e)).seq = s.seq := rfl
@[simp] theorem State.emit_command_port : (s.emit (.command e)).port = s.port := rfl
@[simp] theorem State.emit_command_responses : (s.emit (.command e)).responses = s.responses := rfl
@[simp] theorem State.emit_command_commandBytes : (s.emit (.command e)).commandBytes = s.commandBytes := rfl
@[simp] theorem State.emit_command_commandEntries : (s.emit (.command e)).commandEntries = s.commandEntries ++ [e] := rfl

@[simp] theorem State.answer_cfg : (s.answer r).cfg = s.cfg := rfl
@[simp] theorem State.answer_seq : (s.answer r).seq = s.seq := rfl
@[simp] theorem State.answer_port : (s.answer r).port = s.port := rfl
@[simp] theorem State.answer_responses : (s.answer r).responses = s.responses ++ [r] := rfl
@[simp] theorem State.answer_commandBytes : (s.answer r).commandBytes = s.commandBytes := rfl
@[simp] theorem State.answer_commandEntries : (s.answer r).commandEntries = s.commandEntries := rfl

@[simp] theorem State.passCommand_cfg : (s.passCommand b).cfg = s.cfg := rfl
@[simp] theorem State.passCommand_seq : (s.passCommand b).seq = s.seq := rfl
@[simp] theorem State.passCommand_port : (s.passCommand b).port = s.port := rfl
@[simp] theorem State.passCommand_responses : (s.passCommand b).responses = s.responses := rfl
@[simp] theorem State.passCommand_commandBytes : (s.passCommand b).commandBytes = s.commandBytes := rfl
@[simp] theorem State.passCommand_commandEntries : (s.passCommand b).commandEntries = s.commandEntries ++ [{ written := b, decoded := decodeCommand b }] := rfl

@[simp] theorem State.writeSeq_cfg : (s.writeSeq v).cfg = s.cfg := rfl
@[simp] theorem State.writeSeq_seq : (s.writeSeq v).seq = v := rfl
@[simp] theorem State.writeSeq_port : (s.writeSeq v).port = s.port := rfl
@[simp] theorem State.writeSeq_responses : (s.writeSeq v).responses = s.responses := rfl
@[simp] theorem State.writeSeq_commandBytes : (s.writeSeq v).commandBytes = s.commandBytes := rfl
@[simp] theorem State.writeSeq_commandEntries : (s.writeSeq v).commandEntries = s.commandEntries := rfl

@[simp] theorem State.resetEvent_cfg : (s.resetEvent).cfg = s.cfg := rfl
@[simp] theorem State.resetEvent_seq : (s.resetEvent).seq = 0 := rfl
@[simp] theorem State.resetEvent_port : (s.resetEvent).port = s.port := rfl
@[simp] theorem State.resetEvent_responses : (s.resetEvent).responses = s.responses := rfl
@[simp] theorem State.resetEvent_commandBytes : (s.resetEvent).commandBytes = s.commandBytes := rfl
@[simp] theorem State.resetEvent_commandEntries : (s.resetEvent).commandEntries = s.commandEntries := rfl

@[simp] theorem State.consume_cfg : (s.consume).cfg = s.cfg := rfl
@[simp] theorem State.consume_seq : (s.consume).seq = s.seq := rfl
@[simp] theorem State.consume_port : (s.consume).port = s.port.tail := rfl
@[simp] theorem State.consume_responses : (s.consume).responses = s.responses := rfl
@[simp] theorem State.consume_commandBytes : (s.consume).commandBytes = s.commandBytes := rfl
@[simp] theorem State.consume_commandEntries : (s.consume).commandEntries = s.commandEntries := rfl

@[simp] theorem State.takeCommandByte_cfg : (s.takeCommandByte).cfg = s.cfg := rfl
@[simp] theorem State.takeCommandByte_seq : (s.takeCommandByte).seq = s.seq := rfl
@[simp] theorem State.takeCommandByte_port : (s.takeCommandByte).port = s.port := rfl
@[simp] theorem State.takeCommandByte_responses : (s.takeCommandByte).responses = s.responses := rfl
@[simp] theorem State.takeCommandByte_commandBytes : (s.takeCommandByte).commandBytes = s.commandBytes.tail := rfl
@[simp] theorem State.takeCommandByte_commandEntries : (s.takeCommandByte).commandEntries = s.commandEntries := rfl

@[simp] theorem State.present_request_cfg : (s.present (.request q)).cfg = s.cfg := rfl
@[simp] theorem State.present_request_seq : (s.present (.request q)).seq = s.seq := rfl
@[simp] theorem State.present_request_port : (s.present (.request q)).port = .request q :: s.port := rfl
@[simp] theorem State.present_request_responses : (s.present (.request q)).responses = s.responses := rfl
@[simp] theorem State.present_request_commandBytes : (s.present (.request q)).commandBytes = s.commandBytes := rfl
@[simp] theorem State.present_request_commandEntries : (s.present (.request q)).commandEntries = s.commandEntries := rfl

@[simp] theorem State.present_commandByte_cfg : (s.present (.commandByte b)).cfg = s.cfg := rfl
@[simp] theorem State.present_commandByte_seq : (s.present (.commandByte b)).seq = s.seq := rfl
@[simp] theorem State.present_commandByte_port : (s.present (.commandByte b)).port = [] := rfl
@[simp] theorem State.present_commandByte_responses : (s.present (.commandByte b)).responses = s.responses := rfl
@[simp] theorem State.present_commandByte_commandBytes : (s.present (.commandByte b)).commandBytes = b :: s.commandBytes := rfl
@[simp] theorem State.present_commandByte_commandEntries : (s.present (.commandByte b)).commandEntries = s.commandEntries := rfl

/-! What an instruction gives leaves the fields of the block and its inputs alone, whichever list it is added to. -/

@[simp] theorem State.emit_cfg : (s.emit o).cfg = s.cfg := by cases o <;> rfl
@[simp] theorem State.emit_seq : (s.emit o).seq = s.seq := by cases o <;> rfl
@[simp] theorem State.emit_port : (s.emit o).port = s.port := by cases o <;> rfl
@[simp] theorem State.emit_commandBytes : (s.emit o).commandBytes = s.commandBytes := by cases o <;> rfl

/-- What was given before stays (70_reset R182). -/
theorem State.responses_prefix_emit : s.responses <+: (s.emit o).responses := by cases o <;> simp

theorem State.commandEntries_prefix_emit : s.commandEntries <+: (s.emit o).commandEntries := by cases o <;> simp

@[simp] theorem State.readSeq_eq : s.readSeq = s.seq := rfl

@[simp] theorem State.present_request_consume : (s.present (.request q)).consume = s := rfl
@[simp] theorem State.present_commandByte_takeCommandByte :
    (s.present (.commandByte b)).takeCommandByte = { s with port := [] } := rfl
@[simp] theorem State.nextInput_present_request : (s.present (.request q)).nextInput = .request q := rfl
@[simp] theorem State.nextInput_present_commandByte : (s.present (.commandByte b)).nextInput = .commandByte b := rfl

end Updates

section Responses
variable (st : Status) (d : Diag) (r : Response) (v : Block)

@[simp] theorem Response.raise_status : (Response.raise st d).status = st := rfl
@[simp] theorem Response.raise_diag : (Response.raise st d).diag = d := rfl
@[simp] theorem Response.raise_crc : (Response.raise st d).crc = none := rfl
@[simp] theorem Response.raise_cmd : (Response.raise st d).cmd = none := rfl
@[simp] theorem Response.raise_left : (Response.raise st d).left = none := rfl
@[simp] theorem Response.raise_right : (Response.raise st d).right = none := rfl
@[simp] theorem Response.raise_seq : (Response.raise st d).seq = none := rfl
@[simp] theorem Response.raise_rsv : (Response.raise st d).rsv = none := rfl
@[simp] theorem Response.raise_out : (Response.raise st d).out = none := rfl

@[simp] theorem Response.accepted_status : Response.accepted.status = .ok := rfl
@[simp] theorem Response.accepted_diag : Response.accepted.diag = .none := rfl
@[simp] theorem Response.accepted_crc : Response.accepted.crc = none := rfl
@[simp] theorem Response.accepted_cmd : Response.accepted.cmd = none := rfl
@[simp] theorem Response.accepted_left : Response.accepted.left = none := rfl
@[simp] theorem Response.accepted_right : Response.accepted.right = none := rfl
@[simp] theorem Response.accepted_seq : Response.accepted.seq = none := rfl
@[simp] theorem Response.accepted_rsv : Response.accepted.rsv = none := rfl
@[simp] theorem Response.accepted_out : Response.accepted.out = none := rfl

@[simp] theorem Response.memWrite_status : (r.memWrite v).status = r.status := rfl
@[simp] theorem Response.memWrite_diag : (r.memWrite v).diag = r.diag := rfl
@[simp] theorem Response.memWrite_crc : (r.memWrite v).crc = r.crc := rfl
@[simp] theorem Response.memWrite_cmd : (r.memWrite v).cmd = r.cmd := rfl
@[simp] theorem Response.memWrite_left : (r.memWrite v).left = r.left := rfl
@[simp] theorem Response.memWrite_right : (r.memWrite v).right = r.right := rfl
@[simp] theorem Response.memWrite_seq : (r.memWrite v).seq = r.seq := rfl
@[simp] theorem Response.memWrite_rsv : (r.memWrite v).rsv = r.rsv := rfl
@[simp] theorem Response.memWrite_out : (r.memWrite v).out = some v := rfl

end Responses

end Sys2Proof.Machine
end

