-- ==== Sys2Proof/Laws/Operands.lean ====
section
/-!
SUPPORT. The operand forms and key setup: when each is granted, and with what.
-/

namespace Sys2Proof.Machine

variable {len : Byte} {data : Block}

/-- A frame operand is granted exactly when `len` is at least 16, and is the whole buffer. -/
@[simp] theorem frameOperand_of_le (h : 16 ≤ len.toNat) : frameOperand len data = some data := by
  simp [frameOperand, Nat.not_lt.mpr h]

@[simp] theorem frameOperand_of_lt (h : len.toNat < 16) : frameOperand len data = none := by
  simp [frameOperand, h]

/-- A frame operand is the `MemRead(0, 16)` of the spec's pseudocode. -/
theorem memRead_frame (h : 16 ≤ len.toNat) : memRead len data 0 16 = some data.toList := by
  have : (data.toList.take 16) = data.toList := List.take_of_length_le (by simp)
  simp [memRead, h, this]

theorem crcOperand_of_le (h : len.toNat ≤ 16) : crcOperand len data = some (data.toList.take len.toNat) := by
  simp [crcOperand, memRead, Nat.not_lt.mpr h, h]

theorem crcOperand_of_gt (h : 16 < len.toNat) : crcOperand len data = none := by
  simp [crcOperand, h]

/-- Key setup succeeds exactly on a key of 32 bytes. -/
theorem keySetup_of_length {cfg : Config} (h : cfg.key.length = 32) :
    keySetup cfg = .ok (keyExpansion aesNk aesNr cfg.key) := by
  simp [keySetup, h]

theorem keySetup_of_length_ne {cfg : Config} (h : cfg.key.length ≠ 32) : keySetup cfg = .error .keySetup := by
  simp [keySetup, h]

/-- The two cases of key setup. -/
theorem keySetup_cases (cfg : Config) :
    (cfg.key.length = 32 ∧ keySetup cfg = .ok (keyExpansion aesNk aesNr cfg.key)) ∨
      (cfg.key.length ≠ 32 ∧ keySetup cfg = .error .keySetup) := by
  by_cases h : cfg.key.length = 32
  · exact .inl ⟨h, keySetup_of_length h⟩
  · exact .inr ⟨h, keySetup_of_length_ne h⟩

end Sys2Proof.Machine
end

