-- ==== Sys2Proof/Laws/Codec.lean ====
section
/-!
SUPPORT. The checksum field in both orders, what stamping changes, and the cases of validation.
-/

namespace Sys2Proof.Machine

/-! ## The checksum field -/

theorem fromLe32_le32 (c : Word) : fromLe32 (le32 c) = c := by
  show c.extractLsb' 24 8 ++ c.extractLsb' 16 8 ++ c.extractLsb' 8 8 ++ c.extractLsb' 0 8 = c
  rw [BitVec.extractLsb'_append_extractLsb'_eq_extractLsb' (by rfl),
    BitVec.extractLsb'_append_extractLsb'_eq_extractLsb' (by rfl),
    BitVec.extractLsb'_append_extractLsb'_eq_extractLsb' (by rfl)]
  exact BitVec.extractLsb'_eq_self

theorem fromBe32_be32 (c : Word) : fromBe32 (be32 c) = c := fromLe32_le32 c

/-- Reading a checksum field gives the value written to it, under either order. -/
@[simp] theorem checksumValue_checksumBytes (o : CrcOrder) (c : Word) : checksumValue o (checksumBytes o c) = c := by
  cases o
  · exact fromLe32_le32 c
  · exact fromBe32_be32 c

/-- The value of a checksum field fixes its bytes. -/
theorem checksumValue_inj {o : CrcOrder} {a b : Quad} (h : checksumValue o a = checksumValue o b) : a = b := by
  have h32 : ∀ x0 x1 x2 x3 y0 y1 y2 y3 : Byte,
      (x3 ++ x2 ++ x1 ++ x0 : BitVec 32) = y3 ++ y2 ++ y1 ++ y0 → x0 = y0 ∧ x1 = y1 ∧ x2 = y2 ∧ x3 = y3 := by
    intro x0 x1 x2 x3 y0 y1 y2 y3 e
    have e' := congrArg BitVec.toNat e
    simp only [BitVec.toNat_append, Nat.shiftLeft_eq] at e'
    have hx := fun v : Byte => v.isLt
    have l0 := hx x0; have l1 := hx x1; have l2 := hx x2; have l3 := hx x3
    have m0 := hx y0; have m1 := hx y1; have m2 := hx y2; have m3 := hx y3
    simp only [← Nat.shiftLeft_eq] at e'
    rw [← Nat.shiftLeft_add_eq_or_of_lt (by omega), ← Nat.shiftLeft_add_eq_or_of_lt (by omega),
      ← Nat.shiftLeft_add_eq_or_of_lt (by omega), ← Nat.shiftLeft_add_eq_or_of_lt (by omega),
      ← Nat.shiftLeft_add_eq_or_of_lt (by omega), ← Nat.shiftLeft_add_eq_or_of_lt (by omega)] at e'
    simp only [Nat.shiftLeft_eq] at e'
    refine ⟨?_, ?_, ?_, ?_⟩ <;> apply BitVec.eq_of_toNat_eq <;> omega
  ext i hi : 1
  cases o
  · obtain ⟨e0, e1, e2, e3⟩ := h32 a[0] a[1] a[2] a[3] b[0] b[1] b[2] b[3] h
    interval_cases i <;> assumption
  · obtain ⟨e0, e1, e2, e3⟩ := h32 a[3] a[2] a[1] a[0] b[3] b[2] b[1] b[0] h
    interval_cases i <;> assumption

/-! ## Stamping -/

/-- A block is its sixteen bytes. -/
theorem block_eta (f : Block) :
    f = #v[f[0], f[1], f[2], f[3], f[4], f[5], f[6], f[7], f[8], f[9], f[10], f[11], f[12], f[13], f[14], f[15]] := by
  ext i hi : 1
  interval_cases i <;> rfl

/-- The covered span, byte by byte. -/
theorem covered_eq (f : Block) :
    covered f = [f[0], f[1], f[2], f[3], f[4], f[5], f[6], f[7], f[8], f[9], f[10], f[11]] := by
  conv_lhs => rw [block_eta f]
  rfl

theorem covered_length (f : Block) : (covered f).length = 12 := by simp [covered]

/-- A stamp leaves the covered span alone. -/
@[simp] theorem covered_stamp (cfg : Config) (f : Block) : covered (stamp cfg f) = covered f := by
  rw [covered_eq f]
  rfl

/-- A stamp writes the checksum field. -/
@[simp] theorem checksumField_stamp (cfg : Config) (f : Block) :
    checksumField (stamp cfg f) = stampBytes cfg (covered f) := by
  show #v[(stampBytes cfg (covered f))[0], (stampBytes cfg (covered f))[1], (stampBytes cfg (covered f))[2],
    (stampBytes cfg (covered f))[3]] = _
  ext i hi : 1
  interval_cases i <;> rfl

/-- A stamped frame stores the checksum of its covered span. -/
@[simp] theorem storedChecksum_stamp (cfg : Config) (f : Block) :
    storedChecksum cfg (stamp cfg f) = crc32 (covered f) := by
  simp [storedChecksum, stampBytes]

@[simp] theorem magicField_buildFrame (cfg : Config) (c l r s : Byte) :
    magicField (buildFrame cfg c l r s) = cfg.magic := by
  show #v[cfg.magic[0], cfg.magic[1], cfg.magic[2], cfg.magic[3]] = _
  ext i hi : 1
  interval_cases i <;> rfl

@[simp] theorem buildFrame_version (cfg : Config) (c l r s : Byte) : (buildFrame cfg c l r s)[4] = cfg.version := rfl
@[simp] theorem buildFrame_command (cfg : Config) (c l r s : Byte) : (buildFrame cfg c l r s)[5] = c := rfl
@[simp] theorem buildFrame_left (cfg : Config) (c l r s : Byte) : (buildFrame cfg c l r s)[6] = l := rfl
@[simp] theorem buildFrame_right (cfg : Config) (c l r s : Byte) : (buildFrame cfg c l r s)[7] = r := rfl
@[simp] theorem buildFrame_sequence (cfg : Config) (c l r s : Byte) : (buildFrame cfg c l r s)[8] = s := rfl

/-- The covered span of a built frame. -/
theorem covered_buildFrame (cfg : Config) (c l r s : Byte) :
    covered (buildFrame cfg c l r s) =
      [cfg.magic[0], cfg.magic[1], cfg.magic[2], cfg.magic[3], cfg.version, c, l, r, s, 0, 0, 0] := by
  rw [buildFrame, covered_stamp]
  rfl

@[simp] theorem storedChecksum_buildFrame (cfg : Config) (c l r s : Byte) :
    storedChecksum cfg (buildFrame cfg c l r s) = crc32 (covered (buildFrame cfg c l r s)) := by
  rw [buildFrame, storedChecksum_stamp, covered_stamp]

/-! ## Validation -/

/-- What validation can answer, and when (41_frame_codec R107). -/
theorem validateFrame_cases (cfg : Config) (f : Block) :
    (magicField f ≠ cfg.magic ∧ validateFrame cfg f = .reject .magic) ∨
      (magicField f = cfg.magic ∧ f[4] ≠ cfg.version ∧ validateFrame cfg f = .reject .version) ∨
      (magicField f = cfg.magic ∧ f[4] = cfg.version ∧ storedChecksum cfg f ≠ crc32 (covered f) ∧
        validateFrame cfg f = .reject .checksum) ∨
      (magicField f = cfg.magic ∧ f[4] = cfg.version ∧ storedChecksum cfg f = crc32 (covered f) ∧
        validateFrame cfg f = .accept (frameValues cfg f)) := by
  by_cases h1 : magicField f = cfg.magic
  · by_cases h2 : f[4] = cfg.version
    · by_cases h3 : storedChecksum cfg f = crc32 (covered f) <;> simp [validateFrame, h1, h2, h3]
    · simp [validateFrame, h1, h2]
  · simp [validateFrame, h1]

end Sys2Proof.Machine
end

