-- ==== Sys2Proof/Laws/Decode.lean ====
section
/-!
SUPPORT. The packing of the request vector, field by field, and the byte layout.
-/

namespace Sys2Proof

/-! ## Bytes and numbers -/

/-- Digit `i` of the number that bytes hold is byte `i`. -/
theorem bytesValue_digit (l : List Byte) (i : Nat) (h : i < l.length) :
    bytesValue l / 256 ^ i % 256 = l[i].toNat := by
  induction l generalizing i with
  | nil => simp at h
  | cons b bs ih =>
    have hb := b.isLt
    cases i with
    | zero => simp [bytesValue]; omega
    | succ i =>
      have : (b.toNat + 256 * bytesValue bs) / 256 = bytesValue bs := by omega
      simp only [bytesValue, List.getElem_cons_succ]
      rw [Nat.pow_succ', ← Nat.div_div_eq_div_mul, this]
      exact ih i (by simpa using h)

/-- The bytes of a number hold it, up to their count. -/
theorem bytesValue_valueBytes (n w : Nat) : bytesValue (valueBytes n w) = w % 256 ^ n := by
  induction n generalizing w with
  | zero => simp [valueBytes, bytesValue, Nat.mod_one]
  | succ n ih =>
    have hw : (BitVec.ofNat 8 w).toNat = w % 256 := rfl
    rw [valueBytes, bytesValue, ih, hw, Nat.pow_succ', Nat.mod_mul]

@[simp] theorem valueBytes_length (n w : Nat) : (valueBytes n w).length = n := by
  induction n generalizing w with
  | zero => rfl
  | succ n ih => simp [valueBytes, ih]

theorem valueBytes_getElem (n w i : Nat) (h : i < (valueBytes n w).length) :
    (valueBytes n w)[i] = BitVec.ofNat 8 (w / 256 ^ i) := by
  induction n generalizing w i with
  | zero => simp at h
  | succ n ih =>
    cases i with
    | zero => simp [valueBytes]
    | succ i =>
      simp only [valueBytes, List.getElem_cons_succ]
      rw [ih, Nat.div_div_eq_div_mul, Nat.pow_succ']

/-! ## Buffers and bits -/

/-- A buffer survives being packed into bits. -/
@[simp] theorem blockOfBits_blockBits (d : Block) : blockOfBits (blockBits d) = d := by
  ext i hi : 1
  apply BitVec.eq_of_toNat_eq
  have h : bytesValue d.toList / 256 ^ i % 256 = d[i].toNat := by
    rw [bytesValue_digit d.toList i (by simpa using hi), Vector.getElem_toList]
  have hp : (2 : Nat) ^ (8 * i) = 256 ^ i := by rw [Nat.pow_mul]
  have hd : (2 : Nat) ^ 128 = 256 ^ i * 256 ^ (16 - i) := by
    rw [← Nat.pow_add, show i + (16 - i) = 16 by omega]
    rfl
  simp only [blockOfBits, blockBits, Vector.getElem_ofFn, BitVec.extractLsb'_toNat, BitVec.toNat_ofNat,
    Nat.shiftRight_eq_div_pow, hp]
  rw [hd, Nat.mod_mul_right_div_self, show 16 - i = (15 - i) + 1 by omega, Nat.pow_succ, Nat.mod_mul_left_mod]
  exact h

/-- Bits survive being read as a buffer. -/
@[simp] theorem blockBits_blockOfBits (v : BitVec 128) : blockBits (blockOfBits v) = v := by
  have hl : (blockOfBits v).toList = valueBytes 16 v.toNat := by
    apply List.ext_getElem
    · simp
    · intro i h1 h2
      apply BitVec.eq_of_toNat_eq
      rw [valueBytes_getElem]
      simp [blockOfBits, Nat.shiftRight_eq_div_pow, Nat.pow_mul]
  apply BitVec.eq_of_toNat_eq
  have hv := v.isLt
  rw [blockBits, hl, bytesValue_valueBytes]
  simp
  omega

/-! ## The fields of the request vector -/

theorem extractLsb'_append_low {n m : Nat} (x : BitVec n) (y : BitVec m) : (x ++ y).extractLsb' 0 m = y := by
  ext i hi
  simp [BitVec.getLsbD_append, hi]

theorem extractLsb'_append_high {n m : Nat} (x : BitVec n) (y : BitVec m) (k l : Nat) :
    (x ++ y).extractLsb' (m + k) l = x.extractLsb' k l := by
  ext i hi
  simp only [BitVec.getElem_extractLsb', BitVec.getLsbD_append]
  have h1 : ¬ m + k + i < m := by omega
  have h2 : m + k + i - m = k + i := by omega
  simp [h1, h2]

theorem pack_op (r : Request) : r.pack.extractLsb' 0 3 = r.op := extractLsb'_append_low _ _

theorem pack_len (r : Request) : r.pack.extractLsb' 3 8 = r.len :=
  (extractLsb'_append_high _ r.op 0 8).trans (extractLsb'_append_low _ r.len)

theorem pack_cmd (r : Request) : r.pack.extractLsb' 11 8 = r.cmd :=
  (extractLsb'_append_high _ r.op 8 8).trans <|
    (extractLsb'_append_high _ r.len 0 8).trans (extractLsb'_append_low _ r.cmd)

theorem pack_left (r : Request) : r.pack.extractLsb' 19 8 = r.left :=
  (extractLsb'_append_high _ r.op 16 8).trans <|
    (extractLsb'_append_high _ r.len 8 8).trans <|
      (extractLsb'_append_high _ r.cmd 0 8).trans (extractLsb'_append_low _ r.left)

theorem pack_right (r : Request) : r.pack.extractLsb' 27 8 = r.right :=
  (extractLsb'_append_high _ r.op 24 8).trans <|
    (extractLsb'_append_high _ r.len 16 8).trans <|
      (extractLsb'_append_high _ r.cmd 8 8).trans <|
        (extractLsb'_append_high _ r.left 0 8).trans (extractLsb'_append_low _ r.right)

theorem pack_seq (r : Request) : r.pack.extractLsb' 35 8 = r.seq :=
  (extractLsb'_append_high _ r.op 32 8).trans <|
    (extractLsb'_append_high _ r.len 24 8).trans <|
      (extractLsb'_append_high _ r.cmd 16 8).trans <|
        (extractLsb'_append_high _ r.left 8 8).trans <|
          (extractLsb'_append_high _ r.right 0 8).trans (extractLsb'_append_low _ r.seq)

theorem pack_data (r : Request) : r.pack.extractLsb' 43 128 = blockBits r.data :=
  (extractLsb'_append_high _ r.op 40 128).trans <|
    (extractLsb'_append_high _ r.len 32 128).trans <|
      (extractLsb'_append_high _ r.cmd 24 128).trans <|
        (extractLsb'_append_high _ r.left 16 128).trans <|
          (extractLsb'_append_high _ r.right 8 128).trans <|
            (extractLsb'_append_high (blockBits r.data) r.seq 0 128).trans (by simp)

/-! ## Operations -/

/-- A request decodes to one of the eight operations (30_encoding R70, 60_exceptions R174). -/
theorem isOperation_decode_request (v : BitVec 171) : (decode (.request v)).isOperation = true := by
  show (Request.unpack v).instr.isOperation = true
  unfold Request.instr
  split <;> rfl

/-- A command byte does not. -/
theorem isOperation_decode_commandByte (b : Byte) : (decode (.commandByte b)).isOperation = false := by
  show (commandRow b).isOperation = false
  unfold commandRow
  repeat' split
  all_goals rfl

end Sys2Proof
end

