-- ==== Sys2Proof/Laws/Integrity.lean ====
section
/-!
SUPPORT. The algebra of the CRC step: it is linear over exclusive or, and one-to-one.
-/

namespace Sys2Proof.Machine

/-- One iteration is linear over exclusive or. -/
theorem crcBit_xor (a b : Word) : crcBit (a ^^^ b) = crcBit a ^^^ crcBit b := by
  unfold crcBit
  rw [BitVec.getLsbD_xor, BitVec.ushiftRight_xor_distrib]
  generalize a >>> 1 = x, b >>> 1 = y, crcPoly = p
  cases a.getLsbD 0 <;> cases b.getLsbD 0 <;> ext i hi <;> simp <;> cases x[i] <;> cases y[i] <;> cases p[i] <;> rfl

theorem crcBits_xor (n : Nat) (a b : Word) : crcBits n (a ^^^ b) = crcBits n a ^^^ crcBits n b := by
  induction n generalizing a b with
  | zero => rfl
  | succ n ih => rw [crcBits, crcBits, crcBits, crcBit_xor, ih]

theorem crcBits_add (m n : Nat) (a : Word) : crcBits (m + n) a = crcBits n (crcBits m a) := by
  induction m generalizing a with
  | zero => simp [crcBits]
  | succ m ih => rw [Nat.succ_add, crcBits, crcBits, ih]

/-- The top bit after an iteration is the bit shifted out: `CRC_POLY` has its top bit set. -/
theorem crcBit_top (a : Word) : (crcBit a).getLsbD 31 = a.getLsbD 0 := by
  unfold crcBit
  cases h : a.getLsbD 0 <;> simp [crcPoly]

/-- One iteration sends only zero to zero. -/
theorem crcBit_eq_zero {a : Word} (h : crcBit a = 0) : a = 0 := by
  have h0 : a.getLsbD 0 = false := by rw [← crcBit_top, h]; rfl
  have hs : a >>> 1 = 0 := by rwa [crcBit, h0] at h
  ext i hi
  cases i with
  | zero => simpa [BitVec.getLsbD_eq_getElem] using h0
  | succ i =>
    have := congrArg (fun v : Word => v.getLsbD i) hs
    simpa [Nat.add_comm, BitVec.getLsbD_eq_getElem, hi] using this

theorem crcBits_eq_zero {n : Nat} {a : Word} (h : crcBits n a = 0) : a = 0 := by
  induction n generalizing a with
  | zero => exact h
  | succ n ih => exact crcBit_eq_zero (ih h)

theorem xor_cancel_left {n : Nat} {a b c : BitVec n} (h : a ^^^ b = a ^^^ c) : b = c := by
  simpa [← BitVec.xor_assoc] using congrArg (a ^^^ ·) h

theorem xor_cancel_right {n : Nat} {a b c : BitVec n} (h : b ^^^ a = c ^^^ a) : b = c := by
  rw [BitVec.xor_comm b, BitVec.xor_comm c] at h
  exact xor_cancel_left h

/-- The iterations are one-to-one. -/
theorem crcBits_inj {n : Nat} {a b : Word} (h : crcBits n a = crcBits n b) : a = b := by
  have : crcBits n (a ^^^ b) = 0 := by rw [crcBits_xor, h, BitVec.xor_self]; rfl
  exact BitVec.xor_eq_zero_iff.mp (crcBits_eq_zero this)

/-- The step of one byte is one-to-one in the register. -/
theorem crcByte_inj_reg {a b : Word} {x : Byte} (h : crcByte a x = crcByte b x) : a = b :=
  xor_cancel_right (crcBits_inj h)

/-- The step of one byte is one-to-one in the byte. -/
theorem crcByte_inj_byte {a : Word} {x y : Byte} (h : crcByte a x = crcByte a y) : x = y := by
  have := congrArg (BitVec.setWidth 8) (xor_cancel_left (crcBits_inj h))
  simpa using this

/-- The step of one byte is linear in the register and the byte together. -/
theorem crcByte_xor (a b : Word) (x y : Byte) : crcByte (a ^^^ b) (x ^^^ y) = crcByte a x ^^^ crcByte b y := by
  rw [crcByte, crcByte, crcByte, ← crcBits_xor, BitVec.setWidth_xor]
  congr 1
  ac_rfl

@[simp] theorem crcRun_nil (reg : Word) : crcRun reg [] = reg := rfl
@[simp] theorem crcRun_cons (reg : Word) (b : Byte) (bs : List Byte) :
    crcRun reg (b :: bs) = crcRun (crcByte reg b) bs := rfl
theorem crcRun_append (reg : Word) (as bs : List Byte) : crcRun reg (as ++ bs) = crcRun (crcRun reg as) bs := by
  simp [crcRun]

/-- The register after given bytes is one-to-one in the register before them. -/
theorem crcRun_inj {a b : Word} (bs : List Byte) (h : crcRun a bs = crcRun b bs) : a = b := by
  induction bs generalizing a b with
  | nil => exact h
  | cons x xs ih => exact crcByte_inj_reg (ih h)

end Sys2Proof.Machine
end

