-- ==== Sys2Proof/Laws/PerInstr.lean ====
section
/-!
SUPPORT. Statements made per instruction. `MatchesRow`: the word of a well-formed instruction has the bits that its row of
spec/opcode_table.json fixes.
-/

namespace Sys2Proof.Laws.MatchesRow

/-- The fixed bits of a request vector: `REQ[2:0]` is the operation code (30_encoding R70). -/
def requestRow (code : BitVec 3) : TableWord → Prop
  | .request v => v.extractLsb' 0 3 = code
  | .commandByte _ => False

/-- The fixed bits of a command byte, by mask and match (30_encoding R64, R65, R68). -/
def commandByteRow (mask value : Byte) : TableWord → Prop
  | .request _ => False
  | .commandByte b => b &&& mask = value

/-- The fixed bits of each instruction's row. -/
def row : Instr → TableWord → Prop
  | .crc32 _ _ => requestRow 0
  | .build _ _ _ _ => requestRow 1
  | .parse _ _ => requestRow 2
  | .encrypt _ _ => requestRow 3
  | .decrypt _ _ => requestRow 4
  | .tx _ _ _ _ => requestRow 5
  | .rx _ _ => requestRow 6
  | .send _ _ _ => requestRow 7
  | .cmdStop => commandByteRow 0xFF 0x00
  | .cmdForward => commandByteRow 0xFF 0x01
  | .cmdBackward => commandByteRow 0xFF 0x02
  | .cmdLeft => commandByteRow 0xFF 0x03
  | .cmdRight => commandByteRow 0xFF 0x04
  | .cmdSetSpeed => commandByteRow 0xFF 0x05
  | .cmdUnknown6To7 _ => commandByteRow 0xFE 0x06
  | .cmdUnknown8To15 _ => commandByteRow 0xF8 0x08
  | .cmdUnknown16To31 _ => commandByteRow 0xF0 0x10
  | .cmdUnknown32To63 _ => commandByteRow 0xE0 0x20
  | .cmdUnknown64To127 _ => commandByteRow 0xC0 0x40
  | .cmdUnknown128To255 _ => commandByteRow 0x80 0x80

/-- The word of a well-formed instruction matches its row. -/
def Statement (i : Instr) : Prop := i.wf = true → row i (encode i)

theorem crc32 (len : Byte) (data : Block) : Statement (.crc32 len data) := fun _ => pack_op _
theorem build (cmd left right seq : Byte) : Statement (.build cmd left right seq) := fun _ => pack_op _
theorem parse (len : Byte) (data : Block) : Statement (.parse len data) := fun _ => pack_op _
theorem encrypt (len : Byte) (data : Block) : Statement (.encrypt len data) := fun _ => pack_op _
theorem decrypt (len : Byte) (data : Block) : Statement (.decrypt len data) := fun _ => pack_op _
theorem tx (cmd left right seq : Byte) : Statement (.tx cmd left right seq) := fun _ => pack_op _
theorem rx (len : Byte) (data : Block) : Statement (.rx len data) := fun _ => pack_op _
theorem send (cmd left right : Byte) : Statement (.send cmd left right) := fun _ => pack_op _
theorem cmdStop : Statement .cmdStop := fun _ => rfl
theorem cmdForward : Statement .cmdForward := fun _ => rfl
theorem cmdBackward : Statement .cmdBackward := fun _ => rfl
theorem cmdLeft : Statement .cmdLeft := fun _ => rfl
theorem cmdRight : Statement .cmdRight := fun _ => rfl
theorem cmdSetSpeed : Statement .cmdSetSpeed := fun _ => rfl
theorem cmdUnknown6To7 (b : Byte) : Statement (.cmdUnknown6To7 b) := eq_of_beq
theorem cmdUnknown8To15 (b : Byte) : Statement (.cmdUnknown8To15 b) := eq_of_beq
theorem cmdUnknown16To31 (b : Byte) : Statement (.cmdUnknown16To31 b) := eq_of_beq
theorem cmdUnknown32To63 (b : Byte) : Statement (.cmdUnknown32To63 b) := eq_of_beq
theorem cmdUnknown64To127 (b : Byte) : Statement (.cmdUnknown64To127 b) := eq_of_beq
theorem cmdUnknown128To255 (b : Byte) : Statement (.cmdUnknown128To255 b) := eq_of_beq

end Sys2Proof.Laws.MatchesRow
end

