-- ==== Sys2Proof/Laws/Step.lean ====
section
/-!
SUPPORT. What a step can do, said once: an instruction gives one answer, which the configuration, `SEQ` and the instruction fix, and
only SEND advances `SEQ`; a step is one operation, a reset, the look-up of a command byte, or idle.
-/

namespace Sys2Proof.Machine

/-- What an instruction gives, from the configuration and the value of `SEQ`. -/
def answerOf (cfg : Config) (seq : Byte) : Instr → Output
  | .crc32 len data => .response (crc32Response len data)
  | .build cmd left right s => .response (buildResponse cfg cmd left right s)
  | .parse len data => .response (parseResponse cfg len data)
  | .encrypt len data => .response (encryptResponse cfg len data)
  | .decrypt len data => .response (decryptResponse cfg len data)
  | .tx cmd left right s => .response (txResponse cfg cmd left right s)
  | .rx len data => .response (rxResponse cfg len data)
  | .send cmd left right => .response (sendResponse cfg seq cmd left right)
  | .cmdStop => .command { written := 0, decoded := decodeCommand 0 }
  | .cmdForward => .command { written := 1, decoded := decodeCommand 1 }
  | .cmdBackward => .command { written := 2, decoded := decodeCommand 2 }
  | .cmdLeft => .command { written := 3, decoded := decodeCommand 3 }
  | .cmdRight => .command { written := 4, decoded := decodeCommand 4 }
  | .cmdSetSpeed => .command { written := 5, decoded := decodeCommand 5 }
  | .cmdUnknown6To7 b => .command { written := b, decoded := decodeCommand b }
  | .cmdUnknown8To15 b => .command { written := b, decoded := decodeCommand b }
  | .cmdUnknown16To31 b => .command { written := b, decoded := decodeCommand b }
  | .cmdUnknown32To63 b => .command { written := b, decoded := decodeCommand b }
  | .cmdUnknown64To127 b => .command { written := b, decoded := decodeCommand b }
  | .cmdUnknown128To255 b => .command { written := b, decoded := decodeCommand b }

/-- The value of `SEQ` after an instruction. -/
def seqAfter (seq : Byte) : Instr → Byte
  | .send _ _ _ => nextSeq seq
  | _ => seq

/-- Everything an instruction does. -/
theorem exec_eq (i : Instr) (s : State) :
    exec i s = .next ((s.writeSeq (seqAfter s.seq i)).emit (answerOf s.cfg s.seq i)) := by
  cases i <;> rfl

/-- An operation gives a response. -/
theorem answerOf_operation {i : Instr} (h : i.isOperation = true) (cfg : Config) (seq : Byte) :
    ∃ r, answerOf cfg seq i = .response r := by
  cases i <;> first | exact ⟨_, rfl⟩ | exact absurd h Bool.false_ne_true

/-- Everything a step does: one operation, a reset, the look-up of a command byte, or nothing. -/
theorem step_cases (s : State) :
    (∃ v rest, s.port = .request v :: rest ∧ step s = exec (decode (.request v)) s.consume) ∨
      (∃ rest, s.port = .reset :: rest ∧ step s = .next s.consume.resetEvent) ∨
      (∃ b rest, s.port = [] ∧ s.commandBytes = b :: rest ∧ step s = exec (decode (.commandByte b)) s.takeCommandByte) ∨
      (s.port = [] ∧ s.commandBytes = [] ∧ step s = .next s) := by
  rcases h : s.port with _ | ⟨v | _, rest⟩
  · rcases hc : s.commandBytes with _ | ⟨b, rest⟩
    · exact .inr (.inr (.inr ⟨rfl, rfl, by simp [step, State.nextInput, h, hc]⟩))
    · exact .inr (.inr (.inl ⟨b, rest, rfl, rfl, by simp [step, State.nextInput, h, hc]⟩))
  · exact .inl ⟨v, rest, rfl, by simp [step, State.nextInput, h]⟩
  · exact .inr (.inl ⟨rest, rfl, by simp [step, State.nextInput, h]⟩)

theorem step_request {s : State} {v : BitVec 171} {rest : List PortInput} (h : s.port = .request v :: rest) :
    step s = exec (decode (.request v)) s.consume := by
  simp [step, State.nextInput, h]

theorem step_reset {s : State} {rest : List PortInput} (h : s.port = .reset :: rest) :
    step s = .next s.consume.resetEvent := by
  simp [step, State.nextInput, h]

theorem step_commandByte {s : State} {b : Byte} {rest : List Byte} (hp : s.port = []) (h : s.commandBytes = b :: rest) :
    step s = exec (decode (.commandByte b)) s.takeCommandByte := by
  simp [step, State.nextInput, hp, h]

theorem step_idle {s : State} (hp : s.port = []) (h : s.commandBytes = []) : step s = .next s := by
  simp [step, State.nextInput, hp, h]

/-- A table word the decoder reads is the instruction the next step runs: an operation on the state as it was, a command byte at a
block that waits (log 5, log 6). -/
theorem step_withFetchWord {s : State} {nbits w : Nat} {i : Instr} (h : decodeTableWord nbits w = some i) :
    step (s.withFetchWord nbits w) = exec i (if i.isOperation then s else { s with port := [] }) := by
  unfold decodeTableWord decodeBytes at h
  unfold State.withFetchWord State.presentTableWord
  cases hw : wordOfBytes (tableBytes nbits w) with
  | error e => simp [hw] at h
  | ok tw =>
    simp only [hw, Option.some.injEq] at h
    subst h
    cases tw with
    | request v => rw [isOperation_decode_request]; exact step_request rfl
    | commandByte b => rw [isOperation_decode_commandByte]; exact step_commandByte rfl rfl

/-- At a block that waits, as after reset, the state is as it was in both cases. -/
theorem step_withFetchWord_of_waiting {s : State} {nbits w : Nat} {i : Instr} (hp : s.port = [])
    (h : decodeTableWord nbits w = some i) : step (s.withFetchWord nbits w) = exec i s := by
  have hs : { s with port := [] } = s := by rw [← hp]
  rw [step_withFetchWord h, hs, ite_self]

/-- A run of no steps. -/
theorem core_run_zero (s : State) : Sys2Proof.core.run 0 s = .next s := rfl

/-- A run whose first step goes on. -/
theorem core_run_next {k : Nat} {s t : State} (h : step s = .next t) :
    Sys2Proof.core.run (k + 1) s = Sys2Proof.core.run k t := by
  have h' : Sys2Proof.core.step s = .next t := h
  refine (Host.Core.run.eq_2 Sys2Proof.core s k).trans ?_
  rw [h']

end Sys2Proof.Machine
end

