-- ==== Sys2Proof/Machine/Notation.lean ====
section
/-!
DEFINITION. The notation for requests and responses (30_encoding R76) and the source's spellings of operations (R77). A request line
is held as its mnemonic and its operands; a response is written out as text. Nothing of the machine depends on this file.
-/

namespace Sys2Proof

/-- The name of a command (30_encoding R64). -/
def Command.text : Command → String
  | .stop => "Stop"
  | .forward => "Forward"
  | .backward => "Backward"
  | .left => "Left"
  | .right => "Right"
  | .setSpeed => "SetSpeed"

end Sys2Proof

namespace Sys2Proof.Machine

/-! ## Requests -/

/-- What may stand after `cmd=`: a name of R64 or a number (R76). -/
inductive CommandOperand where
  | name (c : Command)
  | number (b : Byte)
  deriving DecidableEq, Repr

/-- The command byte meant. -/
def CommandOperand.byte : CommandOperand → Byte
  | .name c => c.code
  | .number b => b

/-- A request line: a mnemonic and the operands the operation uses; `data` is the bytes written, `len` may be left out (R76). -/
inductive RequestLine where
  | crc32 (data : List Byte) (len : Option Byte)
  | build (cmd : CommandOperand) (left right seq : Byte)
  | parse (data : List Byte) (len : Option Byte)
  | encrypt (data : List Byte) (len : Option Byte)
  | decrypt (data : List Byte) (len : Option Byte)
  | tx (cmd : CommandOperand) (left right seq : Byte)
  | rx (data : List Byte) (len : Option Byte)
  | send (cmd : CommandOperand) (left right : Byte)
  deriving DecidableEq, Repr

/-- The buffer of the bytes written: "only the first 16 can be carried" (20_memory R41). Bytes that were not written are zero, as in
the words of 95_test_vectors section 9; no response depends on them (R41). -/
def dataOperand (data : List Byte) : Block := Vector.ofFn fun i : Fin 16 => data.getD i 0

/-- "`len` defaults to the number of bytes written in `data`" (R76). `len` is an 8-bit count (20_memory R41), and the spec does not say
what more than 255 bytes written count as: that they count as 255 is the model's choice (DESIGN CHOICE, log 21). -/
def lenOperand (data : List Byte) (len : Option Byte) : Byte := len.getD (BitVec.ofNat 8 (min data.length 255))

/-- The request a line stands for (R76). -/
def RequestLine.instr : RequestLine → Instr
  | .crc32 data len => .crc32 (lenOperand data len) (dataOperand data)
  | .build cmd left right seq => .build cmd.byte left right seq
  | .parse data len => .parse (lenOperand data len) (dataOperand data)
  | .encrypt data len => .encrypt (lenOperand data len) (dataOperand data)
  | .decrypt data len => .decrypt (lenOperand data len) (dataOperand data)
  | .tx cmd left right seq => .tx cmd.byte left right seq
  | .rx data len => .rx (lenOperand data len) (dataOperand data)
  | .send cmd left right => .send cmd.byte left right

/-- The source's spellings that stand for one request (R77). `stamp(f)` stands for none: it is the function `stamp`. -/
inductive SourceCall where
  | checksum (bytes : List Byte) (length : Byte)
  | build (c : CommandOperand) (left right sequence : Byte)
  | encrypt (frameBytes : Block)
  | decrypt (ciphertext : Block)
  | validate (bytes : List Byte)
  | buildAndEncrypt (c : CommandOperand) (left right sequence : Byte)
  | decryptAndValidate (ciphertext : List Byte)
  deriving DecidableEq, Repr

/-- The request line a spelling of the source stands for (R77). -/
def SourceCall.line : SourceCall → RequestLine
  | .checksum bytes length => .crc32 bytes (some length)
  | .build c left right sequence => .build c left right sequence
  | .encrypt frameBytes => .encrypt frameBytes.toList none
  | .decrypt ciphertext => .decrypt ciphertext.toList none
  | .validate bytes => .parse bytes none
  | .buildAndEncrypt c left right sequence => .tx c left right sequence
  | .decryptAndValidate ciphertext => .rx ciphertext none

/-! ## Responses -/

/-- The name of a status (30_encoding R72). -/
def Status.text : Status → String
  | .ok => "OK"
  | .reject => "REJECT"
  | .cipherFail => "CIPHER_FAIL"

/-- The name of a diagnostic (30_encoding R73). -/
def Diag.text : Diag → String
  | .none => "NONE"
  | .size => "SIZE"
  | .magic => "MAGIC"
  | .version => "VERSION"
  | .checksum => "CHECKSUM"
  | .keySetup => "KEY_SETUP"
  | .cipherOp => "CIPHER_OP"

/-- The digits of 30_encoding R76, in order. -/
def digits : List String :=
  ["0", "1", "2", "3", "4", "5", "6", "7", "8", "9", "a", "b", "c", "d", "e", "f"]

/-- One digit. -/
def digit (n : Nat) : String := digits.getD n ""

/-- A byte in two hexadecimal digits. -/
def hexByte (b : Byte) : String := digit (b.toNat / 16) ++ digit (b.toNat % 16)

/-- Bytes "in index order, two hexadecimal digits each", one blank between two (R76). -/
def hexBytes : List Byte → String
  | [] => ""
  | [b] => hexByte b
  | b :: bs => hexByte b ++ " " ++ hexBytes bs

/-- A 32-bit number in eight hexadecimal digits, "most significant digit first" (95_test_vectors). -/
def hexWord (w : Word) : String :=
  hexByte (w.extractLsb' 24 8) ++ hexByte (w.extractLsb' 16 8) ++ hexByte (w.extractLsb' 8 8) ++ hexByte (w.extractLsb' 0 8)

/-- A byte as a decimal number. -/
def decimal (b : Byte) : String :=
  (if b.toNat < 100 then "" else digit (b.toNat / 100)) ++ (if b.toNat < 10 then "" else digit (b.toNat / 10 % 10)) ++
    digit (b.toNat % 10)

/-- ` name=value` for a field that is valid, nothing for one that is not. -/
def fieldText (name : String) : Option String → String
  | none => ""
  | some v => " " ++ name ++ "=" ++ v

/-- A response: `-> STATUS`, the diagnostic of a failure in parentheses, and the valid fields (R76). -/
def Response.text (r : Response) : String :=
  "-> " ++ r.status.text ++ (if r.status = .ok then "" else " (" ++ r.diag.text ++ ")") ++
    fieldText "out" (r.out.map fun b => hexBytes b.toList) ++ fieldText "cmd" (r.cmd.map Command.text) ++
    fieldText "left" (r.left.map decimal) ++ fieldText "right" (r.right.map decimal) ++ fieldText "seq" (r.seq.map decimal) ++
    fieldText "rsv" (r.rsv.map fun b => hexBytes b.toList) ++ fieldText "crc" (r.crc.map hexWord)

end Sys2Proof.Machine
end

