-- ==== Sys2Proof/Tests/Slice0.lean ====
section
/-!
SUPPORT. Tests of one operation or one step each, with the expected values of spec/95_test_vectors.md unless a comment names another
source, and for every obligation that has hypotheses a witness that meets them, at the boundaries of each clause.
-/

namespace Sys2Proof.Tests

open Sys2Proof.Machine

/-! ## Configurations (95_test_vectors) and helpers -/

/-- TC1. -/
def tc1 : Config where
  magic    := #v[0x49, 0x4f, 0x54, 0x52]
  version  := 0x01
  key      := (List.range 32).map (BitVec.ofNat 8)
  iv       := Vector.ofFn fun i : Fin 16 => BitVec.ofNat 8 i.val
  crcOrder := .le

/-- TC2: the checksum field in the other order. -/
def tc2 : Config := { tc1 with crcOrder := .be }

/-- TC3: a key of 16 bytes. -/
def tc3 : Config := { tc1 with key := (List.range 16).map (BitVec.ofNat 8) }

/-- A block that has answered nothing, with a value of `SEQ` and inputs at its port. -/
def blockAt (cfg : Config) (seq : Byte) (port : List PortInput) : State :=
  { cfg := cfg, seq := seq, port := port, responses := [], commandBytes := [], commandEntries := [] }

/-- An entry of the command map as text: the byte written and the command decoded. -/
def entryText (e : CommandEntry) : String := hexByte e.written ++ " " ++ e.decoded.text

/-- What one step on a table word gives, and `SEQ` after it. -/
def answerTo (cfg : Config) (seq : Byte) (w : TableWord) : String × Nat :=
  match step ((blockAt cfg seq []).present w) with
  | .next t => (String.join (t.responses.map Response.text ++ t.commandEntries.map entryText), t.seq.toNat)
  | _ => ("stop", 0)

/-- The same for a request line. -/
def ask (cfg : Config) (seq : Byte) (l : RequestLine) : String × Nat := answerTo cfg seq (encode l.instr)

/-- BUILD's frame for Forward, 200, 200, 5 under TC1. -/
def frameA : List Byte :=
  [0x49, 0x4f, 0x54, 0x52, 0x01, 0x01, 0xc8, 0xc8, 0x05, 0x00, 0x00, 0x00, 0x3e, 0x2d, 0x29, 0x06]

/-- The same frame as a block. -/
def blockA : Block := dataOperand frameA

/-- TX's ciphertext of it under TC1. -/
def cipherA : List Byte :=
  [0x8e, 0x54, 0x5b, 0xcf, 0x35, 0xc6, 0x8c, 0xfe, 0x48, 0x8f, 0xb5, 0xaf, 0xbe, 0x39, 0x2e, 0x43]

/-- A block of zeros. -/
def zeroBlock : Block := Vector.replicate 16 0

/-! ## Well-formedness: a byte just outside each unknown row is refused -/

theorem test_wf_refuses_byte_outside_unknown_6_7 : (Instr.cmdUnknown6To7 8).wf = false := by decide
theorem test_wf_refuses_byte_outside_unknown_8_15 : (Instr.cmdUnknown8To15 16).wf = false := by decide
theorem test_wf_refuses_byte_outside_unknown_16_31 : (Instr.cmdUnknown16To31 15).wf = false := by decide
theorem test_wf_refuses_byte_outside_unknown_32_63 : (Instr.cmdUnknown32To63 31).wf = false := by decide
theorem test_wf_refuses_byte_outside_unknown_64_127 : (Instr.cmdUnknown64To127 128).wf = false := by decide
theorem test_wf_refuses_byte_outside_unknown_128_255 : (Instr.cmdUnknown128To255 127).wf = false := by decide

/-! ## Decoding: one word for every constructor, from 95_test_vectors section 9 and 30_encoding R64, R65, R68, R78 -/

theorem test_decode_crc32 :
    decode (.request 0x1C9C1B9B1A9A19991880000000048) =
      .crc32 9 (dataOperand [0x31, 0x32, 0x33, 0x34, 0x35, 0x36, 0x37, 0x38, 0x39]) := by decide +kernel

theorem test_decode_build : decode (.request 0x38A0504801) = .build 9 10 20 7 := by decide +kernel

theorem test_decode_parse :
    decode (.request 0x314969F00000002E4640080A92A27A480000000082) = .parse 16 blockA := by decide +kernel

theorem test_decode_encrypt :
    decode (.request 0x314969F00000002E4640080A92A27A480000000083) = .encrypt 16 blockA := by decide +kernel

theorem test_decode_decrypt :
    decode (.request 0x21971CDF57DAC7A47F46631AE7ADAA4700000000084) = .decrypt 16 (dataOperand cipherA) := by decide +kernel

/-- R78, field by field from bit 42 down: seq, right, left, cmd, len, op. -/
theorem test_decode_tx :
    decode (.request 0b00000101_11001000_11001000_00000001_00000000_101) = .tx 1 200 200 5 := by decide +kernel

theorem test_decode_rx :
    decode (.request 0x21971CDF57DAC7A47F46631AE7ADAA470000000007E) = .rx 15 (dataOperand cipherA) := by decide +kernel

theorem test_decode_send : decode (.request 0x646400807) = .send 1 200 200 := by decide +kernel

theorem test_decode_named_command_bytes :
    decode (.commandByte 0b00000000) = .cmdStop ∧ decode (.commandByte 0b00000001) = .cmdForward ∧
    decode (.commandByte 0b00000010) = .cmdBackward ∧ decode (.commandByte 0b00000011) = .cmdLeft ∧
    decode (.commandByte 0b00000100) = .cmdRight ∧ decode (.commandByte 0b00000101) = .cmdSetSpeed := by decide

theorem test_decode_unknown_command_bytes_low_end :
    decode (.commandByte 0b00000110) = .cmdUnknown6To7 6 ∧ decode (.commandByte 0b00001000) = .cmdUnknown8To15 8 ∧
    decode (.commandByte 0b00010000) = .cmdUnknown16To31 16 ∧ decode (.commandByte 0b00100000) = .cmdUnknown32To63 32 ∧
    decode (.commandByte 0b01000000) = .cmdUnknown64To127 64 ∧ decode (.commandByte 0b10000000) = .cmdUnknown128To255 128 := by
  decide

theorem test_decode_unknown_command_bytes_high_end :
    decode (.commandByte 0b00000111) = .cmdUnknown6To7 7 ∧ decode (.commandByte 0b00001111) = .cmdUnknown8To15 15 ∧
    decode (.commandByte 0b00011111) = .cmdUnknown16To31 31 ∧ decode (.commandByte 0b00111111) = .cmdUnknown32To63 63 ∧
    decode (.commandByte 0b01111111) = .cmdUnknown64To127 127 ∧ decode (.commandByte 0b11111111) = .cmdUnknown128To255 255 := by
  decide

/-- SEND ignores `seq`, `len` and `data` (R71): every ignored bit set. -/
theorem test_decode_send_ignores_unused_fields :
    decode (.request (0x646400807 ||| 0x7FF ||| (BitVec.allOnes 171 <<< 35))) = .send 1 200 200 := by decide +kernel

/-! ## Encoding: the same words, from the instructions -/

theorem test_encode_tx : encode (.tx 1 200 200 6) = .request 0x3646400805 := by decide +kernel

theorem test_encode_parse :
    encode (RequestLine.parse frameA (some 15)).instr = .request 0x314969F00000002E4640080A92A27A48000000007A := by
  decide +kernel

theorem test_encode_crc32_of_no_bytes : encode (RequestLine.crc32 [] none).instr = .request 0 := by decide +kernel

/-! ## Table words (log 6) -/

theorem test_table_word_of_request : decodeTableWord 171 0x2E46400805 = some (.tx 1 200 200 5) := by decide +kernel
theorem test_table_word_in_whole_bytes : decodeTableWord 176 0x646400807 = some (.send 1 200 200) := by decide +kernel
theorem test_table_word_of_command_byte : decodeTableWord 8 0x09 = some (.cmdUnknown8To15 9) := by decide +kernel
theorem test_table_word_with_bit_171_is_no_word : decodeTableWord 176 (2 ^ 171) = none := by decide +kernel

theorem test_decoder_names_what_it_rejects :
    decodeBytes [] = .error (.wrongLength 0) ∧ decodeBytes [1, 2] = .error (.wrongLength 2) ∧
    decodeBytes (List.replicate 22 0xFF) = .error .strayBits := by
  refine ⟨rfl, rfl, ?_⟩
  simp [decodeBytes, wordOfBytes, bytesValue, List.replicate]

/-- The first step after reset runs a word that was placed for it, of either format. -/
theorem test_first_step_runs_placed_request :
    step (State.reset.withFetchWord 176 0x646400807) = exec (.send 1 200 200) State.reset :=
  step_withFetchWord_of_waiting rfl test_table_word_in_whole_bytes

theorem test_first_step_runs_placed_command_byte :
    step (State.reset.withFetchWord 8 0x09) = exec (.cmdUnknown8To15 9) State.reset :=
  step_withFetchWord_of_waiting rfl test_table_word_of_command_byte

/-! ## CRC32 -/

theorem test_crc32_reads_only_len_bytes :
    ask tc1 5 (.crc32 [0x31, 0x32, 0x33, 0x34, 0x35, 0x36, 0x37, 0x38, 0x39] (some 3)) = ("-> OK crc=884863d2", 5) := by
  decide +kernel

theorem test_crc32_rejects_17_bytes : ask tc1 5 (.crc32 [] (some 17)) = ("-> REJECT (SIZE)", 5) := by decide +kernel

/-- Section 2: the check value, the empty buffer, a buffer of 16 bytes. -/
theorem test_crc32_values :
    crc32 [0x31, 0x32, 0x33, 0x34, 0x35, 0x36, 0x37, 0x38, 0x39] = 0xCBF43926 ∧ crc32 [] = 0 ∧ crc32 [0x01] = 0xA505DF1B ∧
    crc32 ((List.range 16).map (BitVec.ofNat 8)) = 0xCECEE288 := by decide +kernel

/-- R92: entries of the table form. -/
theorem test_crc_table : crcTable 1 = 0x77073096 ∧ crcTable 3 = 0x990951BA ∧ crcTable 255 = 0x2D02EF8D := by decide +kernel

/-- R96 item 3: a change of more than one bit may leave the checksum equal. The change is the 33-bit polynomial itself, bit 0 of its
reflected form first (R92). -/
theorem test_crc32_has_collisions :
    crc32 [0x41, 0x06, 0x71, 0xDB, 0x01] = crc32 [0x00, 0x00, 0x00, 0x00, 0x00] := by decide +kernel

/-! ## BUILD and PARSE -/

theorem test_build_little_endian :
    ask tc1 9 (.build (.name .forward) 200 200 5) =
      ("-> OK out=49 4f 54 52 01 01 c8 c8 05 00 00 00 3e 2d 29 06 crc=06292d3e", 9) := by decide +kernel

theorem test_build_big_endian :
    ask tc2 0 (.build (.name .stop) 0 0 0) = ("-> OK out=49 4f 54 52 01 00 00 00 00 00 00 00 b3 5e e9 7b crc=b35ee97b", 0) := by
  decide +kernel

/-- Section 4: reserved bytes that are not zero, in a frame of consistent checksum. -/
theorem test_parse_returns_reserved_bytes :
    ask tc1 0 (.parse [0x49, 0x4f, 0x54, 0x52, 0x01, 0x01, 0xc8, 0xc8, 0x05, 0xaa, 0x00, 0x00, 0x88, 0xf5, 0xc6, 0xd2] none) =
      ("-> OK cmd=Forward left=200 right=200 seq=5 rsv=aa 00 00 crc=d2c6f588", 0) := by decide +kernel

/-- Section 4: version 02 with a checksum consistent with it. -/
theorem test_parse_rejects_other_version :
    ask tc1 0 (.parse [0x49, 0x4f, 0x54, 0x52, 0x02, 0x01, 0xc8, 0xc8, 0x05, 0x00, 0x00, 0x00, 0xdd, 0x2a, 0xa6, 0x88] none) =
      ("-> REJECT (VERSION)", 0) := by decide +kernel

/-! ## The cipher -/

/-- Section 5: field arithmetic, substitution, round constants. -/
theorem test_aes_bytes :
    gmul 0x57 0x83 = 0xC1 ∧ sbox 0x53 = 0xED ∧ invSbox 0xED = 0x53 ∧
    (List.range 10).map (fun j => rcon (j + 1)) = [0x01, 0x02, 0x04, 0x08, 0x10, 0x20, 0x40, 0x80, 0x1b, 0x36] := by
  decide +kernel

/-- Section 5: the round functions on a whole state, and a column. -/
theorem test_aes_round_functions :
    subBytes #v[0x00, 0x10, 0x20, 0x30, 0x40, 0x50, 0x60, 0x70, 0x80, 0x90, 0xa0, 0xb0, 0xc0, 0xd0, 0xe0, 0xf0] =
      #v[0x63, 0xca, 0xb7, 0x04, 0x09, 0x53, 0xd0, 0x51, 0xcd, 0x60, 0xe0, 0xe7, 0xba, 0x70, 0xe1, 0x8c] ∧
    shiftRows #v[0x63, 0xca, 0xb7, 0x04, 0x09, 0x53, 0xd0, 0x51, 0xcd, 0x60, 0xe0, 0xe7, 0xba, 0x70, 0xe1, 0x8c] =
      #v[0x63, 0x53, 0xe0, 0x8c, 0x09, 0x60, 0xe1, 0x04, 0xcd, 0x70, 0xb7, 0x51, 0xba, 0xca, 0xd0, 0xe7] ∧
    mixColumns #v[0x63, 0x53, 0xe0, 0x8c, 0x09, 0x60, 0xe1, 0x04, 0xcd, 0x70, 0xb7, 0x51, 0xba, 0xca, 0xd0, 0xe7] =
      #v[0x5f, 0x72, 0x64, 0x15, 0x57, 0xf5, 0xbc, 0x92, 0xf7, 0xbe, 0x3b, 0x29, 0x1d, 0xb9, 0xf9, 0x1a] ∧
    invMixColumn 0x8e 0x4d 0xa1 0xbc = #v[0xdb, 0x13, 0x53, 0x45] := by decide +kernel

/-- Section 5: words of the schedule of the key 00 to 1f, the extra SubWord of word 12 among them. -/
theorem test_aes_key_schedule :
    (keyExpansion 8 14 tc1.key)[8]? = some #v[0xa5, 0x73, 0xc2, 0x9f] ∧
    (keyExpansion 8 14 tc1.key)[12]? = some #v[0x16, 0x51, 0xa8, 0xcd] ∧
    (keyExpansion 8 14 tc1.key)[59]? = some #v[0x6d, 0x68, 0xde, 0x36] := by decide +kernel

/-- Section 5: the last words of the schedule of the 128-bit key, a check of the generic form of R131 (R145). -/
theorem test_aes_key_schedule_128 :
    (keyExpansion 4 10 tc3.key)[40]? = some #v[0x13, 0x11, 0x1d, 0x7f] ∧
    (keyExpansion 4 10 tc3.key)[43]? = some #v[0x4d, 0x2b, 0x30, 0xc5] := by decide +kernel

theorem test_encrypt :
    ask tc1 5 (.encrypt [0x00, 0x11, 0x22, 0x33, 0x44, 0x55, 0x66, 0x77, 0x88, 0x99, 0xaa, 0xbb, 0xcc, 0xdd, 0xee, 0xff] none) =
      ("-> OK out=78 e1 6b 06 81 7a 44 53 ab ef 8a 23 5f a9 fa 51", 5) := by decide +kernel

theorem test_encrypt_short_buffer_before_malformed_key :
    ask tc3 0 (.encrypt [] (some 0)) = ("-> REJECT (SIZE)", 0) := by decide +kernel

/-- Section 6: one bit of a ciphertext flipped. -/
theorem test_decrypt :
    ask tc1 0 (.decrypt [0x8f, 0x54, 0x5b, 0xcf, 0x35, 0xc6, 0x8c, 0xfe, 0x48, 0x8f, 0xb5, 0xaf, 0xbe, 0x39, 0x2e, 0x43] none) =
      ("-> OK out=75 be 2e b0 a8 8a a0 0d bf 74 d6 e3 1e ee e2 07", 0) := by decide +kernel

theorem test_decrypt_malformed_key :
    ask tc3 0 (.decrypt zeroBlock.toList none) = ("-> CIPHER_FAIL (KEY_SETUP)", 0) := by decide +kernel

/-! ## The entry points -/

theorem test_tx_big_endian :
    ask tc2 0 (.tx (.name .forward) 200 200 5) = ("-> OK out=72 ec b5 8a c7 26 5b 1b 38 b7 7a f9 6e c8 0a 43", 0) := by
  decide +kernel

theorem test_tx_malformed_key : ask tc3 0 (.tx (.name .forward) 200 200 5) = ("-> CIPHER_FAIL (KEY_SETUP)", 0) := by decide +kernel

/-- Section 7: the ciphertext of command byte 9 decodes to Stop. -/
theorem test_rx_decodes_unknown_command_to_stop :
    ask tc1 0 (.rx [0xca, 0xba, 0x99, 0xb1, 0xf1, 0x6e, 0xdc, 0x19, 0x43, 0xc7, 0xb2, 0xe4, 0xf9, 0x57, 0x74, 0xfc] none) =
      ("-> OK cmd=Stop left=10 right=20 seq=7", 0) := by decide +kernel

theorem test_rx_malformed_key : ask tc3 0 (.rx cipherA none) = ("-> CIPHER_FAIL (KEY_SETUP)", 0) := by decide +kernel

/-- Program P5 line 257: the counter wraps. -/
theorem test_send_wraps :
    ask tc1 255 (.send (.name .forward) 200 200) = ("-> OK out=9c 70 85 a2 52 3b b2 e5 e7 aa d3 a8 b4 3b 0d 2f seq=255", 0) := by
  decide +kernel

theorem test_send_malformed_key_advances :
    ask tc3 5 (.send (.name .forward) 200 200) = ("-> CIPHER_FAIL (KEY_SETUP) seq=5", 6) := by decide +kernel

/-! ## Command bytes: the byte written on build, the command decoded on parse -/

theorem test_named_command_bytes :
    answerTo tc1 5 (.commandByte 0) = ("00 Stop", 5) ∧ answerTo tc1 5 (.commandByte 1) = ("01 Forward", 5) ∧
    answerTo tc1 5 (.commandByte 2) = ("02 Backward", 5) ∧ answerTo tc1 5 (.commandByte 3) = ("03 Left", 5) ∧
    answerTo tc1 5 (.commandByte 4) = ("04 Right", 5) ∧ answerTo tc1 5 (.commandByte 5) = ("05 SetSpeed", 5) := by
  decide +kernel

/-- Section 4: `decode_command` of 6, 7, 9, 128, 255, and a byte of each other row. -/
theorem test_unknown_command_bytes :
    answerTo tc1 5 (.commandByte 6) = ("06 Stop", 5) ∧ answerTo tc1 5 (.commandByte 9) = ("09 Stop", 5) ∧
    answerTo tc1 5 (.commandByte 17) = ("11 Stop", 5) ∧ answerTo tc1 5 (.commandByte 33) = ("21 Stop", 5) ∧
    answerTo tc1 5 (.commandByte 65) = ("41 Stop", 5) ∧ answerTo tc1 5 (.commandByte 255) = ("ff Stop", 5) := by
  decide +kernel

/-! ## Reset -/

theorem test_reset_event : step (blockAt tc1 7 [.reset]) = .next (blockAt tc1 0 []) := rfl

/-- A request is performed before a command byte is looked up. -/
theorem test_request_before_command_byte :
    ({ blockAt tc1 0 [.request 0x88] with commandBytes := [9] } : State).nextInput = .request 0x88 := rfl

/-! ## Witnesses: concrete inputs that meet the hypotheses of an obligation

The name of a witness is that of its obligation; an obligation with several clauses has one for each clause. -/

/-- `ResetEventOnlyClearsSequenceCounter`. -/
theorem witness_ResetEventOnlyClearsSequenceCounter :
    ∃ (s : State) (rest : List PortInput), s.seq = 255 ∧ s.port = .reset :: rest := ⟨blockAt tc1 255 [.reset], [], rfl, rfl⟩

/-- `NothingElseHappensToTheBlock`: a block that waits, without and with a command byte to look up. -/
theorem witness_NothingElseHappensToTheBlock :
    (∃ s : State, s.seq = 7 ∧ s.port = [] ∧ s.commandBytes = []) ∧ (∃ s : State, s.seq = 7 ∧ s.port = [] ∧ s.commandBytes ≠ []) :=
  ⟨⟨blockAt tc1 7 [], rfl, rfl, rfl⟩, ⟨{ blockAt tc1 7 [] with commandBytes := [9] }, rfl, rfl, List.cons_ne_nil _ _⟩⟩

/-- `StepRunsDecodedWord`, `EveryRequestHasExactlyOneResponse`, `ResponseIsFunctionOfConfigSequenceAndRequest`. -/
theorem witness_StepRunsDecodedWord_request :
    ∃ (s : State) (v : BitVec 171) (rest : List PortInput), s.port = .request v :: rest ∧ decode (.request v) = .send 1 200 200 :=
  ⟨blockAt tc1 5 [.request 0x646400807, .reset], _, _, rfl, test_decode_send⟩

/-- The second clause of `StepRunsDecodedWord`. -/
theorem witness_StepRunsDecodedWord_commandByte :
    ∃ (s : State) (b : Byte) (rest : List Byte), s.port = [] ∧ s.commandBytes = b :: rest :=
  ⟨{ blockAt tc1 5 [] with commandBytes := [9] }, _, _, rfl, rfl⟩

/-- `StepKeepsConfigurationAndHistory`, and the case of `OnlySendAndResetWriteSequenceCounter` that leaves `SEQ`. -/
theorem witness_StepKeepsConfigurationAndHistory :
    ∃ s t : State, step s = .next t ∧ (∀ rest, s.port ≠ .reset :: rest) ∧
      (∀ v rest c l r, s.port = .request v :: rest → decode (.request v) ≠ .send c l r) ∧ t.seq = s.seq :=
  ⟨blockAt tc1 5 [], _, rfl, by simp [blockAt], by simp [blockAt], rfl⟩

/-- The case of a reset. -/
theorem witness_OnlySendAndResetWriteSequenceCounter_reset :
    ∃ (s t : State) (rest : List PortInput), step s = .next t ∧ s.port = .reset :: rest ∧ t.seq = 0 ∧ s.seq ≠ 0 :=
  ⟨blockAt tc1 5 [.reset], _, [], rfl, rfl, rfl, by decide⟩

/-- The case of a SEND, at the wrap. -/
theorem witness_OnlySendAndResetWriteSequenceCounter_send :
    ∃ (s t : State) (v : BitVec 171) (rest : List PortInput), step s = .next t ∧ s.port = .request v :: rest ∧
      decode (.request v) = .send 0 0 0 ∧ s.seq = 255 ∧ t.seq = 0 := by
  have hd : decode (.request 7) = .send 0 0 0 := by decide +kernel
  have hp : (blockAt tc3 255 [.request 7]).port = .request 7 :: [] := rfl
  refine ⟨_, _, _, _, (step_request hp).trans ((congrArg (fun i => exec i _) hd).trans (exec_eq _ _)), hp, hd, rfl, ?_⟩
  rfl

/-- `NonSendAnswersIgnoreSequenceCounter`. -/
theorem witness_NonSendAnswersIgnoreSequenceCounter :
    ∃ (i : Instr) (s s' : State), (∀ c l r, i ≠ .send c l r) ∧ s.cfg = s'.cfg ∧ s.seq ≠ s'.seq :=
  ⟨.tx 1 200 200 5, blockAt tc1 0 [], blockAt tc1 9 [], by simp, rfl, by decide⟩

/-- `RunOfRequestsAdvancesCounterPerSend`: two SENDs over the wrap, and another request. -/
theorem witness_RunOfRequestsAdvancesCounterPerSend :
    ∃ (vs : List (BitVec 171)) (s : State), s.seq = 255 ∧ s.port = vs.map .request ∧ vs.countP isSendRequest = 2 :=
  ⟨[7, 0x88, 0x646400807], blockAt tc1 255 _, rfl, rfl, by decide +kernel⟩

/-- `NthSendUsesNumberOfEarlierSends`. -/
theorem witness_NthSendUsesNumberOfEarlierSends :
    ∃ (vs : List (BitVec 171)) (v : BitVec 171) (s : State),
      s.seq = 0 ∧ s.port = (vs ++ [v]).map .request ∧ isSendRequest v = true ∧ vs.countP isSendRequest = 1 :=
  ⟨[7, 0x88], 0x646400807, blockAt tc1 0 _, rfl, rfl, by decide +kernel, by decide +kernel⟩

/-- `EveryAnswerIsAllowed`, `DecodeOfEncodeIsIdentity`: the ends of an unknown row. -/
theorem witness_DecodeOfEncodeIsIdentity :
    (Instr.cmdUnknown8To15 8).wf = true ∧ (Instr.cmdUnknown8To15 15).wf = true ∧ (Instr.rx 15 zeroBlock).wf = true := by decide

/-- `StepKeepsAnswersLawful`: a state that has answered a request and found an entry, and another command byte to look up. -/
theorem witness_StepKeepsAnswersLawful :
    ∃ s t : State, s.responses ≠ [] ∧ s.commandEntries ≠ [] ∧ s.Inv ∧ step s = .next t ∧
      t.commandEntries = s.commandEntries ++ [⟨1, .forward⟩] := by
  refine ⟨{ blockAt tc1 5 [] with
    responses := [.raise .reject .size], commandEntries := [⟨9, .stop⟩], commandBytes := [1] }, _,
    List.cons_ne_nil _ _, List.cons_ne_nil _ _, ⟨?_, ?_⟩, rfl, rfl⟩
  · intro r hr
    obtain rfl : r = .raise .reject .size := List.mem_singleton.1 hr
    exact ⟨.crc32 17 zeroBlock, rfl, by decide, rfl⟩
  · intro e he
    obtain rfl : e = ⟨9, .stop⟩ := List.mem_singleton.1 he
    exact ⟨.cmdUnknown8To15 9, rfl, rfl, rfl⟩

/-- `UnusedRequestFieldsAreIgnored`: one pair of requests for each clause, differing in the unused fields. -/
theorem witness_UnusedRequestFieldsAreIgnored :
    (∃ r r' : Request, r ≠ r' ∧ r.op = r'.op ∧ r.op ∈ [0, 2, 3, 4, 6] ∧ r.len = r'.len ∧ r.data = r'.data) ∧
    (∃ r r' : Request, r ≠ r' ∧ r.op = r'.op ∧ r.op ∈ [1, 5] ∧ r.cmd = r'.cmd ∧ r.left = r'.left ∧ r.right = r'.right ∧
      r.seq = r'.seq) ∧
    (∃ r r' : Request, r ≠ r' ∧ r.op = r'.op ∧ r.op = 7 ∧ r.cmd = r'.cmd ∧ r.left = r'.left ∧ r.right = r'.right) :=
  ⟨⟨bufferRequest 6 16 zeroBlock, { bufferRequest 6 16 zeroBlock with cmd := 3 }, by decide⟩,
    ⟨typedRequest 5 1 2 3 4, { typedRequest 5 1 2 3 4 with len := 255 }, by decide⟩,
    ⟨typedRequest 7 1 2 3 0, { typedRequest 7 1 2 3 0 with seq := 255 }, by decide⟩⟩

/-- `DecodeCommandCoercesUnknownToStop`: the values on both sides of the limit. -/
theorem witness_DecodeCommandCoercesUnknownToStop : (5 : Byte).toNat ≤ 5 ∧ 5 < (6 : Byte).toNat := by decide

/-- `UnknownCommandBytesDecodeToStop`: each row at both ends. -/
theorem witness_UnknownCommandBytesDecodeToStop :
    (∀ b ∈ ([6, 7] : List Byte), b &&& 0xFE = 0x06) ∧ (∀ b ∈ ([8, 15] : List Byte), b &&& 0xF8 = 0x08) ∧
    (∀ b ∈ ([16, 31] : List Byte), b &&& 0xF0 = 0x10) ∧ (∀ b ∈ ([32, 63] : List Byte), b &&& 0xE0 = 0x20) ∧
    (∀ b ∈ ([64, 127] : List Byte), b &&& 0xC0 = 0x40) ∧ (∀ b ∈ ([128, 255] : List Byte), b &&& 0x80 = 0x80) := by decide

/-- `Crc32AnswersChecksumOfFirstBytes` at its limits, `Crc32RejectsMoreThanSixteenBytes`, `OverlongBufferIsTreatedAsSixteenBytes`,
`ShortBufferIsRejectedBeforeCryptography` at theirs. -/
theorem witness_lengths :
    (0 : Byte).toNat ≤ 16 ∧ (16 : Byte).toNat ≤ 16 ∧ 16 < (17 : Byte).toNat ∧ 16 < (255 : Byte).toNat ∧
    (15 : Byte).toNat < 16 ∧ 16 ≤ (16 : Byte).toNat := by decide

/-- `BytesBeyondLenAreNeverRead`: buffers that differ in their last byte only, of which 15 bytes are valid. -/
theorem witness_BytesBeyondLenAreNeverRead :
    ∃ (len : Byte) (d d' : Block), d ≠ d' ∧ ∀ (i : Nat) (h : i < 16), i < len.toNat → d[i] = d'[i] :=
  ⟨15, zeroBlock, zeroBlock.set 15 1, by decide, by decide⟩

/-- `CrcIsLinearForEqualLengths`. -/
theorem witness_CrcIsLinearForEqualLengths : ∃ a b : List Byte, a ≠ b ∧ a.length = b.length := ⟨[1, 2], [3, 4], by decide⟩

/-- `CrcDetectsEverySingleBitChange`: the last bit of the last byte. -/
theorem witness_CrcDetectsEverySingleBitChange : ∃ (bs : List Byte) (k j : Nat), k < bs.length ∧ j < 8 ∧ k = 1 ∧ j = 7 :=
  ⟨[0x31, 0x32], 1, 7, by decide⟩

/-- `LittleEndianFramesHaveConstantResidue`, and the two orders of `BuildWritesFrameLayout`. -/
theorem witness_BuildWritesFrameLayout : tc1.crcOrder = .le ∧ tc2.crcOrder = .be := ⟨rfl, rfl⟩

/-- `ParseAnswersFieldsOfValidFrame` under LE. -/
theorem witness_ParseAnswersFieldsOfValidFrame_le :
    ∃ (s : State) (len : Byte) (f : Block) (k : Word), 16 ≤ len.toNat ∧ #v[f[0], f[1], f[2], f[3]] = s.cfg.magic ∧
      f[4] = s.cfg.version ∧ k = crc32 (f.toList.take 12) ∧ s.cfg.crcOrder = .le ∧ k = f[15] ++ f[14] ++ f[13] ++ f[12] :=
  ⟨blockAt tc1 0 [], 16, blockA, 0x06292D3E, by decide +kernel⟩

/-- `ParseAnswersFieldsOfValidFrame` under BE. -/
theorem witness_ParseAnswersFieldsOfValidFrame_be :
    ∃ (s : State) (len : Byte) (f : Block) (k : Word), 16 ≤ len.toNat ∧ #v[f[0], f[1], f[2], f[3]] = s.cfg.magic ∧
      f[4] = s.cfg.version ∧ k = crc32 (f.toList.take 12) ∧ s.cfg.crcOrder = .be ∧ k = f[12] ++ f[13] ++ f[14] ++ f[15] :=
  ⟨blockAt tc2 0 [], 16,
    #v[0x49, 0x4f, 0x54, 0x52, 0x01, 0x01, 0xc8, 0xc8, 0x05, 0x00, 0x00, 0x00, 0x06, 0x29, 0x2d, 0x3e], 0x06292D3E,
    by decide +kernel⟩

/-- `ParseRejectsAtFirstFailingStep`: each clause; the size clause is `witness_lengths`. -/
theorem witness_ParseRejectsAtFirstFailingStep :
    (∃ f : Block, #v[f[0], f[1], f[2], f[3]] ≠ tc1.magic) ∧
    (∃ f : Block, #v[f[0], f[1], f[2], f[3]] = tc1.magic ∧ f[4] ≠ tc1.version) ∧
    (∃ f : Block, #v[f[0], f[1], f[2], f[3]] = tc1.magic ∧ f[4] = tc1.version ∧
      storedChecksum tc1 f ≠ crc32 (f.toList.take 12)) :=
  ⟨⟨blockA.set 3 0, by decide +kernel⟩, ⟨blockA.set 4 2, by decide +kernel⟩, ⟨blockA.set 15 7, by decide +kernel⟩⟩

/-- `SingleBitChangeOfBuiltFrameIsRejected`: the first and last byte of each of the three ranges, the first and last bit. -/
theorem witness_SingleBitChangeOfBuiltFrameIsRejected :
    (∀ i ∈ [0, 3], i < 16 ∧ i < 4) ∧ (∀ i ∈ [4], i < 16 ∧ ¬ i < 4 ∧ i = 4) ∧
    (∀ i ∈ [5, 11, 12, 15], i < 16 ∧ ¬ i < 4 ∧ ¬ i = 4) ∧ (∀ j ∈ [0, 7], j < 8) := by decide

/-- `ReservedBytesAreIgnoredOnParse`. -/
theorem witness_ReservedBytesAreIgnoredOnParse :
    ∃ (s : State) (f : Block), f[9] ≠ 0 ∧ #v[f[0], f[1], f[2], f[3]] = s.cfg.magic ∧ f[4] = s.cfg.version :=
  ⟨blockAt tc1 0 [], blockA.set 9 0xaa, by decide +kernel⟩

/-- `SboxFollowsInverseAndAffineMap`: both clauses. -/
theorem witness_SboxFollowsInverseAndAffineMap : (0 : Byte) = 0 ∧ (0x53 : Byte) ≠ 0 ∧ gmul 0x53 0xCA = 1 := by decide +kernel

/-- `ShiftRowsRotatesRowByItsNumber`. -/
theorem witness_ShiftRowsRotatesRowByItsNumber : ∃ r c : Nat, r < 4 ∧ c < 4 ∧ r = 3 ∧ c = 3 := ⟨3, 3, by decide⟩

/-- `KeyScheduleFollowsRecurrence` (its constants from the first on), `EncryptAnswersOneCbcBlock` and the others that need a key of 32 bytes: the length; the words at
the ends of each clause. -/
theorem witness_KeyScheduleFollowsRecurrence :
    tc1.key.length = 32 ∧ 1 ≤ 1 ∧ 7 < 8 ∧ (8 ≤ 8 ∧ 8 < 60 ∧ 8 % 8 = 0) ∧ (12 < 60 ∧ 12 % 8 = 4) ∧ (59 < 60 ∧ 59 % 8 = 3) := by decide

/-- `CiphertextsAreEqualExactlyWhenPlaintextsAre`, with plaintexts that differ. -/
theorem witness_CiphertextsAreEqualExactlyWhenPlaintextsAre :
    ∃ (s s' : State) (p p' : Block), s.cfg = s'.cfg ∧ s.cfg.key.length = 32 ∧ p ≠ p' :=
  ⟨blockAt tc1 0 [], blockAt tc1 9 [], zeroBlock, zeroBlock.set 15 1, rfl, by decide, by decide⟩

/-- `MalformedKeyFailsEveryCipherOperation`, `FailedSendAdvancesSequenceCounter`. -/
theorem witness_MalformedKeyFailsEveryCipherOperation : ∃ s : State, s.seq = 255 ∧ s.cfg.key.length ≠ 32 :=
  ⟨blockAt tc3 255 [], rfl, by decide⟩

/-- `TxEqualsBuildThenEncrypt`, `SendUsesAndAdvancesSequenceCounter` at the wrap, `RxEqualsDecryptThenParse`,
`EncryptAnswersOneCbcBlock`, `DecryptAnswersOneCbcBlock`, `EncryptAndDecryptUndoEachOther`. -/
theorem witness_SendUsesAndAdvancesSequenceCounter :
    ∃ (s : State) (len : Byte), s.seq = 255 ∧ s.cfg.key.length = 32 ∧ 16 ≤ len.toNat :=
  ⟨blockAt tc1 255 [], 16, rfl, by decide, by decide⟩

/-- `RxAnswersCommandOfValidCiphertext`: section 7's ciphertext. -/
theorem witness_RxAnswersCommandOfValidCiphertext :
    ∃ (s : State) (len : Byte) (d f : Block), 16 ≤ len.toNat ∧ s.cfg.key.length = 32 ∧
      f = cbc1Decrypt s.cfg (keyExpansion 8 14 s.cfg.key) d ∧ #v[f[0], f[1], f[2], f[3]] = s.cfg.magic ∧ f[4] = s.cfg.version ∧
      storedChecksum s.cfg f = crc32 (f.toList.take 12) :=
  ⟨blockAt tc1 0 [], 16, dataOperand cipherA, blockA, by decide +kernel⟩

/-- `LinkRoundTrip`: two blocks of one configuration that differ elsewhere. -/
theorem witness_LinkRoundTrip :
    ∃ a b : State, a.cfg = b.cfg ∧ a.cfg.key.length = 32 ∧ a.seq ≠ b.seq :=
  ⟨blockAt tc1 0 [], blockAt tc1 9 [], rfl, by decide, by decide⟩

/-- `ReceiverOfOtherConfigurationRejects`: each of its three cases. -/
theorem witness_ReceiverOfOtherConfigurationRejects :
    tc1.key.length = 32 ∧
    (∃ (b : State) (m : Quad), m ≠ tc1.magic ∧ b.cfg = { tc1 with magic := m }) ∧
    (∃ (b : State) (v : Byte), v ≠ tc1.version ∧ b.cfg = { tc1 with version := v }) ∧
    (∃ (b : State) (o : CrcOrder), o ≠ tc1.crcOrder ∧ b.cfg = { tc1 with crcOrder := o } ∧
      fromLe32 (checksumField (buildFrame tc1 1 200 200 5)) ≠ fromBe32 (checksumField (buildFrame tc1 1 200 200 5))) :=
  ⟨by decide, ⟨blockAt { tc1 with magic := #v[0, 0, 0, 0] } 0 [], _, by decide, rfl⟩,
    ⟨blockAt { tc1 with version := 2 } 0 [], _, by decide, rfl⟩,
    ⟨blockAt tc2 0 [], .be, by decide, rfl, by decide +kernel⟩⟩

/-- `FailureCarriesNoResultAndWritesNoState`: a rejection, and a SEND that fails. -/
theorem witness_FailureCarriesNoResultAndWritesNoState :
    (∃ (i : Instr) (s t : State) (r : Response), exec i s = .next t ∧ t.responses = s.responses ++ [r] ∧ r.status ≠ .ok ∧
      ∀ c l q, i ≠ .send c l q) ∧
    (∃ (s t : State) (r : Response), exec (.send 1 2 3) s = .next t ∧ t.responses = s.responses ++ [r] ∧ r.status ≠ .ok) :=
  ⟨⟨.crc32 17 zeroBlock, blockAt tc1 5 [], _, _, rfl, rfl, by decide, by simp⟩,
    ⟨blockAt tc3 5 [], _, _, rfl, rfl, by decide⟩⟩

/-- `FieldsReadOnPins`: a response with every field, and one with none. -/
theorem witness_FieldsReadOnPins :
    (∃ r : Response, r.fields = ⟨true, true, true, true, true, true, true⟩ ∧ r.cmd = some .setSpeed ∧ r.out = some blockA) ∧
    (∃ r : Response, r.fields = noFields) :=
  ⟨⟨{ status := .ok, diag := .none, crc := some 0x06292D3E, cmd := some .setSpeed, left := some 200, right := some 100,
      seq := some 5, rsv := some #v[0xaa, 0, 0], out := some blockA }, rfl, rfl, rfl⟩,
    ⟨.raise .reject .size, rfl⟩⟩

/-- 60_exceptions R166, 30_encoding R64, R69: a command reads as its byte and the reserved bytes lie lowest first. -/
theorem test_pins :
    ({ status := .ok, diag := .none, cmd := some .setSpeed, rsv := some #v[0xaa, 0xbb, 0xcc] } : Response).pins =
      ⟨0, 0, 0, 5, 0, 0, 0, 0xccbbaa, 0⟩ := by decide +kernel

end Sys2Proof.Tests
end

section
/-!
PROOFS. What no step undoes: the configuration is constant (00_scope R9, 10_state R29), what was given stays given (70_reset R182), and
inputs are only taken from the front (log 2, log 3). Each update of the state keeps this, so an instruction does, and so does every case
of a step.
-/

namespace Sys2Proof.Machine

/-- `t` comes after `s`: of one configuration, with nothing that was given withdrawn and no input added. -/
structure State.Precedes (s t : State) : Prop where
  cfg_eq : t.cfg = s.cfg
  responses_prefix : s.responses <+: t.responses
  commandEntries_prefix : s.commandEntries <+: t.commandEntries
  port_suffix : t.port <:+ s.port
  commandBytes_suffix : t.commandBytes <:+ s.commandBytes

namespace State.Precedes

theorem refl (s : State) : s.Precedes s :=
  ⟨rfl, List.prefix_refl _, List.prefix_refl _, List.suffix_refl _, List.suffix_refl _⟩

theorem trans {s t u : State} (h : s.Precedes t) (k : t.Precedes u) : s.Precedes u where
  cfg_eq := k.cfg_eq.trans h.cfg_eq
  responses_prefix := h.responses_prefix.trans k.responses_prefix
  commandEntries_prefix := h.commandEntries_prefix.trans k.commandEntries_prefix
  port_suffix := k.port_suffix.trans h.port_suffix
  commandBytes_suffix := k.commandBytes_suffix.trans h.commandBytes_suffix

theorem writeSeq (s : State) (v : Byte) : s.Precedes (s.writeSeq v) :=
  { refl s with }

theorem resetEvent (s : State) : s.Precedes s.resetEvent := writeSeq s 0

theorem consume (s : State) : s.Precedes s.consume :=
  { refl s with port_suffix := List.tail_suffix _ }

theorem takeCommandByte (s : State) : s.Precedes s.takeCommandByte :=
  { refl s with commandBytes_suffix := List.tail_suffix _ }

theorem emit (s : State) (o : Output) : s.Precedes (s.emit o) where
  cfg_eq := s.emit_cfg o
  responses_prefix := s.responses_prefix_emit o
  commandEntries_prefix := s.commandEntries_prefix_emit o
  port_suffix := by simp
  commandBytes_suffix := by simp

end State.Precedes

theorem exec_precedes {i : Instr} {s t : State} (h : exec i s = .next t) : s.Precedes t := by
  rw [exec_eq] at h
  cases h
  exact (State.Precedes.writeSeq s _).trans (.emit _ _)

theorem step_precedes {s t : State} (h : step s = .next t) : s.Precedes t := by
  obtain ⟨v, rest, -, hs⟩ | ⟨rest, -, hs⟩ | ⟨b, rest, -, -, hs⟩ | ⟨-, -, hs⟩ := step_cases s <;> rw [hs] at h
  case inl => exact (State.Precedes.consume s).trans (exec_precedes h)
  case inr.inl =>
    cases h
    exact (State.Precedes.consume s).trans (.resetEvent _)
  case inr.inr.inl => exact (State.Precedes.takeCommandByte s).trans (exec_precedes h)
  case inr.inr.inr =>
    cases h
    exact .refl s

/-- Settles O7: every case of a step is made of updates that keep `State.Precedes`. -/
theorem stepKeepsConfigurationAndHistory : Obligations.StepKeepsConfigurationAndHistory := by
  intro s t h
  obtain ⟨hcfg, hresponses, hentries, hport, hbytes⟩ := step_precedes h
  exact ⟨hcfg, hresponses, hentries, hport, hbytes⟩

end Sys2Proof.Machine
end

section
/-!
PROOFS. Who reads and who writes `SEQ` (10_state R21, R23, R25, R30): SEND alone among the instructions does either, and reset is the
only other writer. So a request's response and the next `SEQ` are a function of the configuration, of `SEQ` and of the request, and a
response of any other instruction than SEND does not depend on `SEQ`.
-/

namespace Sys2Proof.Machine

/-! ## SEND and the other instructions -/

/-- Addition modulo 256 (10_state R23). -/
theorem nextSeq_toNat (q : Byte) : (nextSeq q).toNat = (q.toNat + 1) % 256 := BitVec.toNat_add q 1

@[simp] theorem seqAfter_send (q c l r : Byte) : seqAfter q (.send c l r) = nextSeq q := rfl

theorem seqAfter_of_ne_send {i : Instr} (hi : ∀ c l r, i ≠ .send c l r) (q : Byte) : seqAfter q i = q := by
  cases i with
  | send c l r => exact absurd rfl (hi c l r)
  | _ => rfl

theorem answerOf_eq_of_ne_send {i : Instr} (hi : ∀ c l r, i ≠ .send c l r) (cfg : Config) (q q' : Byte) :
    answerOf cfg q i = answerOf cfg q' i := by
  cases i with
  | send c l r => exact absurd rfl (hi c l r)
  | _ => rfl

theorem exec_of_ne_send {i : Instr} (hi : ∀ c l r, i ≠ .send c l r) (s : State) :
    exec i s = .next (s.emit (answerOf s.cfg s.seq i)) := by
  rw [exec_eq, seqAfter_of_ne_send hi]
  rfl

theorem exec_seq {i : Instr} {s t : State} (h : exec i s = .next t) : t.seq = seqAfter s.seq i := by
  rw [exec_eq] at h
  cases h
  simp

/-- A command byte is no operation, so it is no SEND. -/
theorem decode_commandByte_ne_send (b c l r : Byte) : decode (.commandByte b) ≠ .send c l r := by
  intro h
  have hop := isOperation_decode_commandByte b
  rw [h] at hop
  cases hop

/-! ## The input taken -/

theorem State.consume_of_port {s : State} {x : PortInput} {rest : List PortInput} (h : s.port = x :: rest) :
    s.consume = { s with port := rest } := by
  simp [State.consume, h]

theorem State.takeCommandByte_of_commandBytes {s : State} {b : Byte} {rest : List Byte} (h : s.commandBytes = b :: rest) :
    s.takeCommandByte = { s with commandBytes := rest } := by
  simp [State.takeCommandByte, h]

/-! ## The statements -/

/-- Settles O6: the function pairs `seqAfter` with the response that `answerOf` gives an operation. -/
theorem responseIsFunctionOfConfigSequenceAndRequest : Obligations.ResponseIsFunctionOfConfigSequenceAndRequest := by
  choose response hresponse using fun v => answerOf_operation (isOperation_decode_request v)
  refine ⟨fun cfg q v => (seqAfter q (decode (.request v)), response v cfg q), fun s v rest hport => ?_⟩
  rw [step_request hport, State.consume_of_port hport, exec_eq, hresponse]
  rfl

/-- Settles O8: the cases of a step, a request being a SEND or not. -/
theorem onlySendAndResetWriteSequenceCounter : Obligations.OnlySendAndResetWriteSequenceCounter := by
  intro s t h
  obtain ⟨v, rest, hport, hs⟩ | ⟨rest, hport, hs⟩ | ⟨b, rest, hport, -, hs⟩ | ⟨hport, -, hs⟩ := step_cases s <;> rw [hs] at h
  case inl =>
    have hseq := exec_seq h
    by_cases hsend : ∃ c l r, decode (.request v) = .send c l r
    · obtain ⟨c, l, r, hd⟩ := hsend
      rw [hd, seqAfter_send] at hseq
      exact .inr (.inl ⟨v, rest, c, l, r, hport, hd, hseq ▸ nextSeq_toNat s.seq⟩)
    · push Not at hsend
      refine .inr (.inr ⟨by simp [hport], ?_, hseq.trans (seqAfter_of_ne_send hsend _)⟩)
      rw [hport]
      rintro _ _ c l r ⟨⟩
      exact hsend c l r
  case inr.inl =>
    cases h
    exact .inl ⟨rest, hport, rfl⟩
  case inr.inr.inl =>
    have hseq : t.seq = s.seq := (exec_seq h).trans (seqAfter_of_ne_send (decode_commandByte_ne_send b) _)
    exact .inr (.inr ⟨by simp [hport], by simp [hport], hseq⟩)
  case inr.inr.inr =>
    cases h
    exact .inr (.inr ⟨by simp [hport], by simp [hport], rfl⟩)

/-- Settles O9: what is given in the one state is what is given in the other, `answerOf` not depending on `SEQ`. -/
theorem nonSendAnswersIgnoreSequenceCounter : Obligations.NonSendAnswersIgnoreSequenceCounter := by
  intro i s s' hi hcfg
  refine ⟨answerOf s.cfg s.seq i, exec_of_ne_send hi s, ?_⟩
  rw [exec_of_ne_send hi s', ← hcfg, answerOf_eq_of_ne_send hi s.cfg s'.seq s.seq]

/-- Settles O1: the five fields of `State.reset`. -/
theorem resetLeavesSequenceCounterZero : Obligations.ResetLeavesSequenceCounterZero :=
  ⟨rfl, rfl, rfl, rfl, rfl⟩

/-- Settles O4: the request and the command-byte case of a step, with the input taken. -/
theorem stepRunsDecodedWord : Obligations.StepRunsDecodedWord := by
  constructor
  · intro s v rest hport
    exact ⟨isOperation_decode_request v, by rw [step_request hport, State.consume_of_port hport]⟩
  · intro s b rest hport hbytes
    rw [step_commandByte hport hbytes, State.takeCommandByte_of_commandBytes hbytes]

/-- The invariant holds wherever nothing has been given yet. -/
theorem State.inv_of_nothing_given {s : State} (hr : s.responses = []) (he : s.commandEntries = []) : s.Inv := by
  simp [State.Inv, hr, he]

/-- Settles O14: after reset nothing has been given, by O1. -/
theorem resetAnswersLawful : Obligations.ResetAnswersLawful := by
  obtain ⟨-, -, hresponses, -, hentries⟩ := resetLeavesSequenceCounterZero
  exact State.inv_of_nothing_given hresponses hentries

end Sys2Proof.Machine
end

section
/-!
PROOFS. A run of requests (20_memory R50, R51): the block performs each request at its port in order, answers it once, and advances
`SEQ` for the SENDs among them (10_state R21, R23). So a SEND after any requests uses the number of SENDs before it (43_entry_points
R155).
-/

namespace Sys2Proof.Machine

/-! ## One request -/

theorem isSendRequest_iff {v : BitVec 171} : isSendRequest v = true ↔ ∃ c l r, decode (.request v) = .send c l r := by
  unfold isSendRequest
  split
  next c l r hd => simp [hd]
  next hd => simpa using hd

/-- A request advances `SEQ` by one when it is a SEND, and else by none. -/
theorem seqAfter_request_toNat (q : Byte) (v : BitVec 171) :
    (seqAfter q (decode (.request v))).toNat = (q.toNat + if isSendRequest v then 1 else 0) % 256 := by
  by_cases hv : isSendRequest v = true
  · obtain ⟨c, l, r, hd⟩ := isSendRequest_iff.1 hv
    rw [hd, seqAfter_send, nextSeq_toNat, if_pos hv]
  · have hd : ∀ c l r, decode (.request v) ≠ .send c l r := fun c l r h => hv (isSendRequest_iff.2 ⟨c, l, r, h⟩)
    rw [seqAfter_of_ne_send hd, if_neg hv, Nat.add_zero, Nat.mod_eq_of_lt q.isLt]

/-- What the step of a request does, field by field; a command byte to look up is left alone. -/
theorem step_request_answers {s : State} {v : BitVec 171} {rest : List PortInput} (hport : s.port = .request v :: rest) :
    ∃ t r, step s = .next t ∧ answerOf s.cfg s.seq (decode (.request v)) = .response r ∧
      t.cfg = s.cfg ∧ t.seq = seqAfter s.seq (decode (.request v)) ∧ t.port = rest ∧
      t.responses = s.responses ++ [r] ∧ t.commandEntries = s.commandEntries := by
  obtain ⟨r, hr⟩ := answerOf_operation (isOperation_decode_request v) s.cfg s.seq
  refine ⟨_, r, (step_request hport).trans (exec_eq _ _), hr, ?_⟩
  simp [hr, hport]

/-- SEND answers the value it used, whatever the cipher's outcome (43_entry_points R155, R156). -/
@[simp] theorem sendResponse_seq (cfg : Config) (q c l r : Byte) : (sendResponse cfg q c l r).seq = some q := by
  unfold sendResponse
  obtain ⟨-, hk⟩ | ⟨-, hk⟩ := keySetup_cases cfg <;> rw [hk]

/-! ## Runs -/

/-- The requests `vs` at the front of the port are performed, whatever comes after them, and the run goes on from there. -/
theorem core_run_requests (vs : List (BitVec 171)) (rest : List PortInput) (s : State)
    (hport : s.port = vs.map .request ++ rest) :
    ∃ t, (∀ n, Sys2Proof.core.run (vs.length + n) s = Sys2Proof.core.run n t) ∧ t.port = rest ∧ t.cfg = s.cfg ∧
      t.responses.length = s.responses.length + vs.length ∧ t.commandEntries = s.commandEntries ∧
      t.seq.toNat = (s.seq.toNat + vs.countP isSendRequest) % 256 := by
  induction vs generalizing s with
  | nil =>
    have hrun (n : Nat) : Sys2Proof.core.run (0 + n) s = Sys2Proof.core.run n s := by rw [Nat.zero_add]
    exact ⟨s, hrun, hport, rfl, rfl, rfl, (Nat.mod_eq_of_lt s.seq.isLt).symm⟩
  | cons v vs ih =>
    obtain ⟨u, r, hstep, -, hucfg, huseq, huport, huresponses, huentries⟩ := step_request_answers hport
    obtain ⟨t, hrun, htport, hcfg, hresponses, hentries, hseq⟩ := ih u huport
    refine ⟨t, fun n => ?_, htport, hcfg.trans hucfg, ?_, hentries.trans huentries, ?_⟩
    · rw [List.length_cons, Nat.succ_add, core_run_next hstep, hrun]
    · simp only [hresponses, huresponses, List.length_append, List.length_cons, List.length_nil]
      omega
    · rw [hseq, huseq, seqAfter_request_toNat, List.countP_cons]
      omega

/-- Settles O10: the run of the requests, with nothing after them at the port. -/
theorem runOfRequestsAdvancesCounterPerSend : Obligations.RunOfRequestsAdvancesCounterPerSend := by
  intro vs s hport
  obtain ⟨t, hrun, hrest⟩ := core_run_requests vs [] s (by rw [hport, List.append_nil])
  exact ⟨t, hrun 0, hrest⟩

/-- Settles O11: after the run of the earlier requests `SEQ` is the number of SENDs among them, and the step of the SEND answers it. -/
theorem nthSendUsesNumberOfEarlierSends : Obligations.NthSendUsesNumberOfEarlierSends := by
  intro vs v s hzero hport hsend
  obtain ⟨c, l, r, hd⟩ := isSendRequest_iff.1 hsend
  obtain ⟨u, hrun, huport, -, -, -, hseq⟩ := core_run_requests vs [.request v] s (by rw [hport, List.map_append]; rfl)
  obtain ⟨t, a, hstep, ha, -, -, -, hresponses, -⟩ := step_request_answers huport
  rw [hd] at ha
  obtain rfl : sendResponse u.cfg u.seq c l r = a := Output.response.inj ha
  refine ⟨t, u.responses, _, u.seq, ?_, hresponses, sendResponse_seq _ _ _ _ _, ?_⟩
  · rw [hrun, core_run_next hstep, core_run_zero]
  · simp [hseq, hzero]

end Sys2Proof.Machine
end

section
/-!
PROOFS. The request buffer (20_memory R41, R46, R47): an operation reads the buffer through its operand form and nowhere else, so two
buffers, or two lengths, with the same operand are answered the same.
-/

namespace Sys2Proof.Machine

variable {len len' : Byte} {data data' : Block}

/-! ## What the operand forms read -/

theorem take_toList_eq_of_agree (h : ∀ (i : Nat) (hi : i < 16), i < len.toNat → data[i] = data'[i]) :
    data.toList.take len.toNat = data'.toList.take len.toNat := by
  refine List.ext_getElem (by simp) fun i hi _ => ?_
  obtain ⟨hlen, hi16⟩ : i < len.toNat ∧ i < 16 := by simpa using hi
  simpa using h i hi16 hlen

theorem crcOperand_eq_of_take (h : data.toList.take len.toNat = data'.toList.take len.toNat) :
    crcOperand len data = crcOperand len data' := by
  rcases Nat.lt_or_ge 16 len.toNat with hlen | hlen
  · rw [crcOperand_of_gt hlen, crcOperand_of_gt hlen]
  · rw [crcOperand_of_le hlen, crcOperand_of_le hlen, h]

theorem frameOperand_eq_of_take (h : data.toList.take len.toNat = data'.toList.take len.toNat) :
    frameOperand len data = frameOperand len data' := by
  rcases Nat.lt_or_ge len.toNat 16 with hlen | hlen
  · rw [frameOperand_of_lt hlen, frameOperand_of_lt hlen]
  · have hdata : data = data' := by
      rw [List.take_of_length_le (by simpa using hlen), List.take_of_length_le (by simpa using hlen)] at h
      exact Vector.toList_inj.1 h
    rw [hdata]

/-! ## The operations read their operand only -/

/-- Instructions that give the same and leave the same `SEQ` do the same. -/
theorem exec_congr {i i' : Instr} {s : State} (hseq : seqAfter s.seq i = seqAfter s.seq i')
    (hanswer : answerOf s.cfg s.seq i = answerOf s.cfg s.seq i') : exec i s = exec i' s := by
  rw [exec_eq, exec_eq, hseq, hanswer]

theorem exec_crc32_eq_of_operand (h : crcOperand len data = crcOperand len' data') (s : State) :
    exec (.crc32 len data) s = exec (.crc32 len' data') s :=
  exec_congr rfl (by simp only [answerOf, crc32Response, h])

section FrameOperations
variable (h : frameOperand len data = frameOperand len' data') (s : State)
include h

theorem exec_parse_eq_of_operand : exec (.parse len data) s = exec (.parse len' data') s :=
  exec_congr rfl (by simp only [answerOf, parseResponse, parseFrame, h])

theorem exec_encrypt_eq_of_operand : exec (.encrypt len data) s = exec (.encrypt len' data') s :=
  exec_congr rfl (by simp only [answerOf, encryptResponse, h])

theorem exec_decrypt_eq_of_operand : exec (.decrypt len data) s = exec (.decrypt len' data') s :=
  exec_congr rfl (by simp only [answerOf, decryptResponse, h])

theorem exec_rx_eq_of_operand : exec (.rx len data) s = exec (.rx len' data') s :=
  exec_congr rfl (by simp only [answerOf, rxResponse, h])

end FrameOperations

/-! ## The statements -/

/-- Settles O26: buffers that agree below `len` have the same operand in both forms. -/
theorem bytesBeyondLenAreNeverRead : Obligations.BytesBeyondLenAreNeverRead := by
  intro s len d d' hagree
  have htake := take_toList_eq_of_agree hagree
  have hframe := frameOperand_eq_of_take htake
  exact ⟨exec_crc32_eq_of_operand (crcOperand_eq_of_take htake) s, exec_parse_eq_of_operand hframe s,
    exec_encrypt_eq_of_operand hframe s, exec_decrypt_eq_of_operand hframe s, exec_rx_eq_of_operand hframe s⟩

/-- Settles O49: the frame operand of an overlong buffer is that of 16 bytes, and CRC32 has no operand. -/
theorem overlongBufferIsTreatedAsSixteenBytes : Obligations.OverlongBufferIsTreatedAsSixteenBytes := by
  intro s len data hlen
  have hframe : frameOperand len data = frameOperand 16 data := by
    rw [frameOperand_of_le hlen.le, frameOperand_of_le (by decide)]
  have hcrc : crc32Response len data = .raise .reject .size := by rw [crc32Response, crcOperand_of_gt hlen]
  refine ⟨exec_parse_eq_of_operand hframe s, exec_encrypt_eq_of_operand hframe s, exec_decrypt_eq_of_operand hframe s,
    exec_rx_eq_of_operand hframe s, ?_⟩
  rw [exec_eq, answerOf, hcrc]
  rfl

end Sys2Proof.Machine
end

section
/-!
PROOFS. Words and instructions (30_encoding R64 to R71): the request vector is its seven fields and no bit more, so the decoder gives
back what the encoder writes; and the rows of the command map exclude each other and cover all bytes.
-/

namespace Sys2Proof

/-! ## The request vector -/

@[simp] theorem unpack_pack (r : Request) : Request.unpack r.pack = r := by
  simp only [Request.unpack, pack_op, pack_len, pack_cmd, pack_left, pack_right, pack_seq, pack_data, blockOfBits_blockBits]

/-- The fields of a vector, put together again from the highest, are all its bits. -/
@[simp] theorem pack_unpack (v : BitVec 171) : (Request.unpack v).pack = v := by
  simp only [Request.pack, Request.unpack, blockBits_blockOfBits]
  rw [BitVec.extractLsb'_append_extractLsb'_eq_extractLsb' (by rfl),
    BitVec.extractLsb'_append_extractLsb'_eq_extractLsb' (by rfl),
    BitVec.extractLsb'_append_extractLsb'_eq_extractLsb' (by rfl),
    BitVec.extractLsb'_append_extractLsb'_eq_extractLsb' (by rfl),
    BitVec.extractLsb'_append_extractLsb'_eq_extractLsb' (by rfl),
    BitVec.extractLsb'_append_extractLsb'_eq_extractLsb' (by rfl)]
  exact BitVec.extractLsb'_eq_self

@[simp] theorem decode_request_pack (r : Request) : decode (.request r.pack) = r.instr := by
  rw [decode, unpack_pack]

/-- Settles O17: each field is where it was put, and the fields are all the bits. -/
theorem requestPackingIsOneToOne : Obligations.RequestPackingIsOneToOne :=
  ⟨unpack_pack, pack_unpack⟩

/-- Settles O18: the instruction of a request is made of the operation's own fields. -/
theorem unusedRequestFieldsAreIgnored : Obligations.UnusedRequestFieldsAreIgnored := by
  intro r r' hop
  simp only [decode_request_pack, Request.instr, ← hop, List.mem_cons, List.not_mem_nil, or_false]
  refine ⟨?_, ?_, ?_⟩
  · rintro (h | h | h | h | h) hlen hdata <;> simp [h, hlen, hdata]
  · rintro (h | h) hcmd hleft hright hseq <;> simp [h, hcmd, hleft, hright, hseq]
  · intro h hcmd hleft hright
    simp [h, hcmd, hleft, hright]

/-- An operation takes any value of any operand (30_encoding R61, R71). -/
theorem wf_of_isOperation {i : Instr} (h : i.isOperation = true) : i.wf = true := by
  cases i with
  | crc32 | build | parse | encrypt | decrypt | tx | rx | send => rfl
  | _ => cases h

/-! ## The command map

What the rows of the command map say of a byte is checked on all 256 bytes, which they "together cover" (30_encoding R64, R65). -/

/-- The rows of the bytes that no command has (30_encoding R65). -/
def unknownRows : List (Byte → Instr) :=
  [.cmdUnknown6To7, .cmdUnknown8To15, .cmdUnknown16To31, .cmdUnknown32To63, .cmdUnknown64To127, .cmdUnknown128To255]

/-- The unknown rows exclude each other and the named ones: a byte that one of them admits is in no other row. -/
theorem commandRow_of_unknownRow :
    ∀ b : Byte, ∀ row ∈ unknownRows, (row b).wf = true → commandRow b = row b := by decide +kernel

theorem commandRow_wf : ∀ b : Byte, (commandRow b).wf = true := by decide +kernel

@[simp] theorem encode_commandRow : ∀ b : Byte, encode (commandRow b) = .commandByte b := by decide +kernel

/-! ## Decoding and encoding -/

/-- Settles O15: an operation's word is a packed request, a named command's word is its byte, and an unknown byte is in one row. -/
theorem decodeOfEncodeIsIdentity : Obligations.DecodeOfEncodeIsIdentity := by
  intro i hwf
  cases i with
  | crc32 | build | parse | encrypt | decrypt | tx | rx | send => exact decode_request_pack _
  | cmdStop | cmdForward | cmdBackward | cmdLeft | cmdRight | cmdSetSpeed => rfl
  | cmdUnknown6To7 b | cmdUnknown8To15 b | cmdUnknown16To31 b | cmdUnknown32To63 b | cmdUnknown64To127 b
  | cmdUnknown128To255 b => exact commandRow_of_unknownRow b _ (by simp [unknownRows]) hwf

/-- No word is illegal (30_encoding R70, R74). -/
theorem decode_wf (w : TableWord) : (decode w).wf = true := by
  cases w with
  | request v => exact wf_of_isOperation (isOperation_decode_request v)
  | commandByte b => exact commandRow_wf b

/-- Settles O16: what is decoded is well-formed, so its own word decodes to it, by O15. -/
theorem everyWordDecodesToWellFormedInstruction : Obligations.EveryWordDecodesToWellFormedInstruction :=
  ⟨fun w => ⟨decode_wf w, decodeOfEncodeIsIdentity _ (decode_wf w)⟩, encode_commandRow⟩

/-- Settles O19: the words of the spec, evaluated. -/
theorem sampleWordsDecode : Obligations.SampleWordsDecode := by
  unfold Obligations.SampleWordsDecode
  decide +kernel

end Sys2Proof

namespace Sys2Proof.Machine

/-! ## Command bytes in the codec -/

/-- An instruction whose word is a command byte passes that byte and nothing else (log 3); the word of an operation is a request. -/
theorem exec_of_encode_commandByte {i : Instr} {b : Byte} (h : encode i = .commandByte b) (s : State) :
    exec i s = .next (s.passCommand b) := by
  cases i with
  | crc32 | build | parse | encrypt | decrypt | tx | rx | send => cases h
  | _ =>
    cases h
    rfl

/-- The explicit coercion of every unknown byte (41_frame_codec R106). -/
theorem decodeCommand_of_unknownRow :
    ∀ b : Byte, ∀ row ∈ unknownRows, (row b).wf = true → decodeCommand b = .stop := by decide +kernel

theorem exec_unknownRow {row : Byte → Instr} {b : Byte} (hrow : row ∈ unknownRows) (hwf : (row b).wf = true) (s : State) :
    exec (row b) s = .next { s with commandEntries := s.commandEntries ++ [⟨b, .stop⟩] } := by
  have hexec : exec (row b) s = .next (s.passCommand b) := by
    rw [← commandRow_of_unknownRow b row hrow hwf]
    exact exec_of_encode_commandByte (encode_commandRow b) s
  rw [hexec, State.passCommand, decodeCommand_of_unknownRow b row hrow hwf]
  rfl

/-- Settles O21: the six named bytes are passed, and each is decoded to its own command. -/
theorem namedCommandBytesDecodeToTheirCommands : Obligations.NamedCommandBytesDecodeToTheirCommands := fun s =>
  ⟨exec_of_encode_commandByte rfl s, exec_of_encode_commandByte rfl s, exec_of_encode_commandByte rfl s,
    exec_of_encode_commandByte rfl s, exec_of_encode_commandByte rfl s, exec_of_encode_commandByte rfl s⟩

/-- Settles O22: the mask and match of a row are its well-formedness. -/
theorem unknownCommandBytesDecodeToStop : Obligations.UnknownCommandBytesDecodeToStop := by
  intro s b
  refine ⟨?_, ?_, ?_, ?_, ?_, ?_⟩ <;> intro hmask <;>
    exact exec_unknownRow (by simp [unknownRows]) (by simpa [Instr.wf] using hmask) s

end Sys2Proof.Machine
end

section
/-!
PROOFS. Lawful answers (30_encoding R69, 60_exceptions R164, R169): what each operation answers has an outcome of its row of the matrix
and exactly the fields valid then; so an instruction gives only what the spec allows it, and every step keeps all that was given lawful.
-/

namespace Sys2Proof.Machine

/-! ## The answers of the operations -/

section Operations
variable (cfg : Config) (len : Byte) (data : Block) (c l r q : Byte)

/-- The size test of a frame operation, before it reads a byte (60_exceptions R163, R164). -/
theorem frameOperand_cases :
    (len.toNat < 16 ∧ frameOperand len data = none) ∨ (¬ len.toNat < 16 ∧ frameOperand len data = some data) := by
  by_cases h : len.toNat < 16
  · exact .inl ⟨h, frameOperand_of_lt h⟩
  · exact .inr ⟨h, frameOperand_of_le (Nat.le_of_not_lt h)⟩

theorem crc32Response_answers : (Output.response (crc32Response len data)).answers (.crc32 len data) := by
  unfold crc32Response
  rcases Nat.lt_or_ge 16 len.toNat with h | h
  · rw [crcOperand_of_gt h]
    exact ⟨by simp [allowedOutcomes, h], rfl⟩
  · rw [crcOperand_of_le h]
    exact ⟨by simp [allowedOutcomes, Nat.not_lt.2 h], rfl⟩

theorem buildResponse_answers : (Output.response (buildResponse cfg c l r q)).answers (.build c l r q) :=
  ⟨List.mem_singleton.2 rfl, rfl⟩

theorem parseFrame_of_operand {f : Block} (h : frameOperand len data = some f) :
    parseFrame cfg data len = validateFrame cfg f := by
  rw [parseFrame, h]

theorem parseResponse_answers : (Output.response (parseResponse cfg len data)).answers (.parse len data) := by
  obtain ⟨h, ho⟩ | ⟨h, ho⟩ := frameOperand_cases len data
  · rw [parseResponse, parseFrame, ho]
    exact ⟨by simp [allowedOutcomes, h], rfl⟩
  · rw [parseResponse, parseFrame_of_operand cfg len data ho]
    obtain ⟨-, hv⟩ | ⟨-, -, hv⟩ | ⟨-, -, -, hv⟩ | ⟨-, -, -, hv⟩ := validateFrame_cases cfg data <;>
      rw [hv] <;> exact ⟨by simp [allowedOutcomes, h], rfl⟩

theorem encryptResponse_answers : (Output.response (encryptResponse cfg len data)).answers (.encrypt len data) := by
  unfold encryptResponse
  obtain ⟨h, ho⟩ | ⟨h, ho⟩ := frameOperand_cases len data <;> rw [ho]
  · exact ⟨by simp [allowedOutcomes, h], rfl⟩
  · obtain ⟨-, hk⟩ | ⟨-, hk⟩ := keySetup_cases cfg <;>
      rw [hk] <;> exact ⟨by simp [allowedOutcomes, h], rfl⟩

theorem decryptResponse_answers : (Output.response (decryptResponse cfg len data)).answers (.decrypt len data) := by
  unfold decryptResponse
  obtain ⟨h, ho⟩ | ⟨h, ho⟩ := frameOperand_cases len data <;> rw [ho]
  · exact ⟨by simp [allowedOutcomes, h], rfl⟩
  · obtain ⟨-, hk⟩ | ⟨-, hk⟩ := keySetup_cases cfg <;>
      rw [hk] <;> exact ⟨by simp [allowedOutcomes, h], rfl⟩

theorem txResponse_answers : (Output.response (txResponse cfg c l r q)).answers (.tx c l r q) := by
  unfold txResponse
  obtain ⟨-, hk⟩ | ⟨-, hk⟩ := keySetup_cases cfg <;> rw [hk] <;> exact ⟨by simp [allowedOutcomes], rfl⟩

theorem rxResponse_answers : (Output.response (rxResponse cfg len data)).answers (.rx len data) := by
  unfold rxResponse
  obtain ⟨h, ho⟩ | ⟨h, ho⟩ := frameOperand_cases len data <;> rw [ho]
  · exact ⟨by simp [allowedOutcomes, h], rfl⟩
  · obtain ⟨-, hk⟩ | ⟨-, hk⟩ := keySetup_cases cfg <;> rw [hk]
    · obtain ⟨-, hv⟩ | ⟨-, -, hv⟩ | ⟨-, -, -, hv⟩ | ⟨-, -, -, hv⟩ :=
        validateFrame_cases cfg (cbc1Decrypt cfg (keyExpansion aesNk aesNr cfg.key) data) <;>
        simp only [hv] <;> exact ⟨by simp [allowedOutcomes, h], rfl⟩
    · exact ⟨by simp [allowedOutcomes, h], rfl⟩

theorem sendResponse_answers : (Output.response (sendResponse cfg q c l r)).answers (.send c l r) := by
  unfold sendResponse
  obtain ⟨-, hk⟩ | ⟨-, hk⟩ := keySetup_cases cfg <;> rw [hk] <;> exact ⟨by simp [allowedOutcomes], rfl⟩

end Operations

/-! ## Every instruction, every step -/

theorem answerOf_answers (cfg : Config) (q : Byte) (i : Instr) : (answerOf cfg q i).answers i := by
  cases i with
  | crc32 len data => exact crc32Response_answers len data
  | build c l r s => exact buildResponse_answers cfg c l r s
  | parse len data => exact parseResponse_answers cfg len data
  | encrypt len data => exact encryptResponse_answers cfg len data
  | decrypt len data => exact decryptResponse_answers cfg len data
  | tx c l r s => exact txResponse_answers cfg c l r s
  | rx len data => exact rxResponse_answers cfg len data
  | send c l r => exact sendResponse_answers cfg c l r q
  | _ => exact ⟨rfl, rfl⟩

/-- Settles O12: what `exec_eq` says an instruction gives is allowed. -/
theorem everyAnswerIsAllowed : Obligations.EveryAnswerIsAllowed :=
  fun i s _ => ⟨seqAfter s.seq i, answerOf s.cfg s.seq i, exec_eq i s, answerOf_answers s.cfg s.seq i⟩

/-- The invariant speaks of what was given only. -/
theorem State.Inv.of_given_eq {s t : State} (h : s.Inv) (hr : t.responses = s.responses)
    (he : t.commandEntries = s.commandEntries) : t.Inv := by
  rwa [State.Inv, hr, he]

theorem State.Inv.emit {s : State} {o : Output} (h : s.Inv) (ho : o.lawful) : (s.emit o).Inv := by
  obtain ⟨hresponses, hentries⟩ := h
  cases o with
  | response r => exact ⟨List.forall_mem_append.2 ⟨hresponses, List.forall_mem_singleton.2 ho⟩, hentries⟩
  | command e => exact ⟨hresponses, List.forall_mem_append.2 ⟨hentries, List.forall_mem_singleton.2 ho⟩⟩

/-- A decoded word is a well-formed instruction, so what it gives is lawful. -/
theorem exec_decode_inv {s t : State} {w : TableWord} (hinv : s.Inv) (h : exec (decode w) s = .next t) : t.Inv := by
  obtain ⟨q, o, hexec, ho⟩ := everyAnswerIsAllowed (decode w) s (decode_wf w)
  rw [hexec] at h
  cases h
  have hseq : State.Inv { s with seq := q } := hinv.of_given_eq rfl rfl
  exact hseq.emit ⟨decode w, decode_wf w, ho⟩

/-- Settles O13: a request and a command byte give one lawful answer more, a reset and an idle step none. -/
theorem stepKeepsAnswersLawful : Obligations.StepKeepsAnswersLawful := by
  intro s t hinv h
  obtain ⟨v, rest, -, hs⟩ | ⟨rest, -, hs⟩ | ⟨b, rest, -, -, hs⟩ | ⟨-, -, hs⟩ := step_cases s <;> rw [hs] at h
  case inl => exact exec_decode_inv (hinv.of_given_eq rfl rfl : s.consume.Inv) h
  case inr.inl =>
    cases h
    exact hinv.of_given_eq rfl rfl
  case inr.inr.inl => exact exec_decode_inv (hinv.of_given_eq rfl rfl : s.takeCommandByte.Inv) h
  case inr.inr.inr =>
    cases h
    exact hinv

end Sys2Proof.Machine
end

section
/-!
PROOFS. Stamped frames (30_encoding R62, R66, 41_frame_codec R101): a stamp is made of bytes 0 to 11 only and leaves them as they are,
so a second stamp changes nothing, and PARSE of a stamped frame has only the magic and the version left to refuse.
-/

namespace Sys2Proof.Machine

variable {cfg : Config} {f g : Block}

/-- A stamped frame is fixed by its covered span. -/
theorem stamp_congr (h : covered f = covered g) : stamp cfg f = stamp cfg g := by
  have hbytes := h
  simp only [covered_eq, List.cons.injEq, and_true] at hbytes
  simp only [stamp, h, hbytes]

@[simp] theorem stamp_stamp (cfg : Config) (f : Block) : stamp cfg (stamp cfg f) = stamp cfg f :=
  stamp_congr (covered_stamp cfg f)

/-- Settles O32: a built frame is a stamped one. -/
theorem stampOfBuiltFrameChangesNothing : Obligations.StampOfBuiltFrameChangesNothing :=
  fun cfg c l r q => stamp_stamp cfg (frameFields cfg c l r q)

@[simp] theorem magicField_stamp (cfg : Config) (f : Block) : magicField (stamp cfg f) = magicField f := rfl
@[simp] theorem stamp_version (cfg : Config) (f : Block) : (stamp cfg f)[4] = f[4] := rfl

/-- The values of a stamped frame are its own, but for the checksum, which is that of its covered span. -/
theorem frameValues_stamp (cfg : Config) (f : Block) :
    frameValues cfg (stamp cfg f) = { frameValues cfg f with crc := crc32 (covered f) } := by
  rw [← storedChecksum_stamp cfg f]
  rfl

/-- A frame that passes the three checks is accepted (41_frame_codec R107 step 5). -/
theorem validateFrame_accept (hm : magicField f = cfg.magic) (hv : f[4] = cfg.version)
    (hc : storedChecksum cfg f = crc32 (covered f)) : validateFrame cfg f = .accept (frameValues cfg f) := by
  simp [validateFrame, hm, hv, hc]

theorem validateFrame_stamp (hm : magicField f = cfg.magic) (hv : f[4] = cfg.version) :
    validateFrame cfg (stamp cfg f) = .accept { frameValues cfg f with crc := crc32 (covered f) } := by
  have haccept : validateFrame cfg (stamp cfg f) = .accept (frameValues cfg (stamp cfg f)) :=
    validateFrame_accept hm hv (by simp)
  rw [haccept, frameValues_stamp]

/-- Settles O38: no check reads the reserved bytes of a stamped frame. -/
theorem reservedBytesAreIgnoredOnParse : Obligations.ReservedBytesAreIgnoredOnParse := by
  intro s f hm hv
  have hparse : parseFrame s.cfg (stamp s.cfg f) 16 = .accept { frameValues s.cfg f with crc := crc32 (covered f) } := by
    rw [parseFrame_of_operand _ _ _ (frameOperand_of_le (by decide))]
    exact validateFrame_stamp hm hv
  rw [exec_eq, answerOf, parseResponse, hparse]
  rfl

end Sys2Proof.Machine
end

section
/-!
PROOFS. The integrity layer (40_integrity_crc32): shifting by one byte is the table look-up, the checksum is linear over exclusive or and
one-to-one in every byte, and the running register after its own value in little-endian order is a constant.
-/

namespace Sys2Proof.Machine

/-! ## The table form -/

/-- Iterations on a register whose low bits are zero only shift. -/
theorem crcBits_eq_ushiftRight {n : Nat} {a : Word} (h : ∀ i < n, a.getLsbD i = false) : crcBits n a = a >>> n := by
  induction n generalizing a with
  | zero => rfl
  | succ n ih =>
    have hbit : crcBit a = a >>> 1 := by rw [crcBit, h 0 (by omega), if_neg Bool.false_ne_true]
    have hlow : ∀ i < n, (a >>> 1).getLsbD i = false := fun i hi => by
      rw [BitVec.getLsbD_ushiftRight]
      exact h (1 + i) (by omega)
    rw [crcBits, hbit, ih hlow, ← BitVec.shiftRight_add, Nat.add_comm]

theorem setWidth_byte_ushiftRight (b : Byte) : b.setWidth 32 >>> 8 = 0 := by
  ext i hi
  simp

/-- Eight iterations shift the upper bytes down and look the low byte up in the table (R92). -/
theorem crcBits_eight (a : Word) : crcBits 8 a = a >>> 8 ^^^ crcTable (a.setWidth 8) := by
  have hupper : crcBits 8 (a ^^^ (a.setWidth 8).setWidth 32) = a >>> 8 := by
    rw [crcBits_eq_ushiftRight fun i hi => by simp [hi]; omega, BitVec.ushiftRight_xor_distrib, setWidth_byte_ushiftRight]
    exact BitVec.xor_zero
  calc crcBits 8 a
    _ = crcBits 8 (a ^^^ (a.setWidth 8).setWidth 32 ^^^ (a.setWidth 8).setWidth 32) := by simp
    _ = a >>> 8 ^^^ crcTable (a.setWidth 8) := by rw [crcBits_xor, hupper, crcTable]

theorem crcTableByte_eq_crcByte (reg : Word) (b : Byte) : crcTableByte reg b = crcByte reg b := by
  rw [crcByte, crcBits_eight, BitVec.ushiftRight_xor_distrib, setWidth_byte_ushiftRight, crcTableByte]
  simp

/-- Settles O27: the two forms take the same step for every byte. -/
theorem crcTableFormAgreesWithBitwiseForm : Obligations.CrcTableFormAgreesWithBitwiseForm := by
  intro bs
  rw [crc32ByTable, crc32, crcRun, List.foldl_ext _ _ _ fun reg b _ => crcTableByte_eq_crcByte reg b]

/-! ## Linearity -/

theorem crcRun_xor {as bs : List Byte} (h : as.length = bs.length) (x y : Word) :
    crcRun (x ^^^ y) (List.zipWith (· ^^^ ·) as bs) = crcRun x as ^^^ crcRun y bs := by
  induction as generalizing bs x y with
  | nil =>
    obtain rfl := List.length_eq_zero_iff.1 h.symm
    rfl
  | cons a as ih =>
    cases bs with
    | nil => cases h
    | cons b bs =>
      rw [List.zipWith_cons_cons, crcRun_cons, crcRun_cons, crcRun_cons, crcByte_xor, ih (Nat.succ.inj h)]

theorem zipWith_xor_replicate_zero (as : List Byte) :
    List.zipWith (· ^^^ ·) as (List.replicate as.length 0) = as := by
  induction as with
  | nil => rfl
  | cons a as ih => rw [List.length_cons, List.replicate_succ, List.zipWith_cons_cons, ih]; simp

/-- Settles O28: three registers run side by side; the three initial values leave one, and so do the three final ones. -/
theorem crcIsLinearForEqualLengths : Obligations.CrcIsLinearForEqualLengths := by
  intro a b hlen
  have hab : (List.zipWith (· ^^^ ·) a b).length = a.length := by simp [hlen]
  have hinit : crcInit ^^^ crcInit ^^^ crcInit = crcInit := by simp
  have hrun : crcRun crcInit a ^^^ crcRun crcInit b ^^^ crcRun crcInit (List.replicate a.length 0) =
      crcRun crcInit (List.zipWith (· ^^^ ·) a b) := by
    rw [← crcRun_xor hlen, ← crcRun_xor (by simp [hlen]), hinit, ← hab, zipWith_xor_replicate_zero]
  calc crc32 a ^^^ crc32 b ^^^ crc32 (List.replicate a.length 0)
    _ = crcRun crcInit a ^^^ crcRun crcInit b ^^^ crcRun crcInit (List.replicate a.length 0) ^^^ crcXorOut ^^^
        (crcXorOut ^^^ crcXorOut) := by simp only [crc32]; ac_rfl
    _ = crc32 (List.zipWith (· ^^^ ·) a b) := by rw [hrun, BitVec.xor_self, BitVec.xor_zero, crc32]

/-! ## Single-bit changes -/

/-- The checksum of a buffer is one-to-one in each of its bytes. -/
theorem crc32_set_inj {bs : List Byte} {k : Nat} (hk : k < bs.length) {x y : Byte}
    (h : crc32 (bs.set k x) = crc32 (bs.set k y)) : x = y := by
  have hrun := xor_cancel_right h
  simp only [List.set_eq_take_append_cons_drop, hk, if_true, crcRun_append, crcRun_cons] at hrun
  exact crcByte_inj_byte (crcRun_inj _ hrun)

/-- Settles O29: the checksum fixes the byte, and exclusive or with one bit changes it. -/
theorem crcDetectsEverySingleBitChange : Obligations.CrcDetectsEverySingleBitChange := by
  intro bs k hk j hj heq
  have hbyte : bs[k] ^^^ 1#8 <<< j = bs[k] ^^^ 0 := by
    apply crc32_set_inj hk
    simp [heq]
  have hbit := congrArg (·.getLsbD j) (xor_cancel_left hbyte)
  simp [hj] at hbit

/-! ## The residue -/

/-- Eight iterations on a register with a word in it: the word's next byte enters, and the word is shifted by it. -/
theorem crcBits_xor_word (n k : Nat) (reg c : Word) :
    crcBits (8 + n) (reg ^^^ c >>> k) = crcBits n (crcByte reg (c.extractLsb' k 8) ^^^ c >>> (k + 8)) := by
  have hbyte : (c >>> k).setWidth 8 = c.extractLsb' k 8 := by
    ext i hi
    simp
  rw [crcBits_add, crcBits_xor, crcBits_eight (c >>> k), ← BitVec.shiftRight_add, hbyte, crcTable, crcByte, crcBits_xor 8 reg]
  congr 1
  ac_rfl

/-- A word that enters in little-endian order enters all at once. -/
theorem crcRun_le32 (reg c : Word) : crcRun reg (le32 c).toList = crcBits 32 (reg ^^^ c) := by
  have hzero : c >>> 32 = 0 := by
    ext i hi
    simp
  calc crcRun reg (le32 c).toList
    _ = crcBits 0 (crcRun reg (le32 c).toList ^^^ c >>> 32) := by rw [hzero, crcBits]; simp
    _ = crcBits 32 (reg ^^^ c >>> 0) := by
      rw [crcBits_xor_word 24 0 reg c, crcBits_xor_word 16 8, crcBits_xor_word 8 16, crcBits_xor_word 0 24]
      rfl
    _ = crcBits 32 (reg ^^^ c) := by rw [BitVec.ushiftRight_zero]

/-- The residue of CRC-32: a buffer with its own checksum after it, in little-endian order. -/
theorem crc32_append_le32_crc32 (bs : List Byte) : crc32 (bs ++ (le32 (crc32 bs)).toList) = 0x2144DF1C := by
  have hreg : crcRun crcInit bs ^^^ crc32 bs = crcXorOut := by rw [crc32, ← BitVec.xor_assoc]; simp
  rw [crc32, crcRun_append, crcRun_le32, hreg]
  decide +kernel

theorem quad_toList (q : Quad) : q.toList = [q[0], q[1], q[2], q[3]] :=
  List.ext_getElem (by simp) fun i hi _ => by
    have : i < 4 := by simpa using hi
    interval_cases i <;> simp

/-- A stamped frame is its covered span and the checksum field. -/
theorem toList_stamp (cfg : Config) (f : Block) :
    (stamp cfg f).toList = covered f ++ (stampBytes cfg (covered f)).toList := by
  rw [quad_toList, covered_eq f, stamp, covered_eq f]
  rfl

/-- Settles O30: under LE a built frame is its covered span with the checksum of that span after it, in little-endian order. -/
theorem littleEndianFramesHaveConstantResidue : Obligations.LittleEndianFramesHaveConstantResidue := by
  intro cfg c l r q horder
  rw [buildFrame, toList_stamp, stampBytes, horder]
  exact crc32_append_le32_crc32 _

/-! ## The operation -/

theorem crc32Response_of_le {len : Byte} (h : len.toNat ≤ 16) (data : Block) :
    crc32Response len data = { Response.accepted with crc := some (crc32 (data.toList.take len.toNat)) } := by
  rw [crc32Response, crcOperand_of_le h]

theorem crc32Response_of_gt {len : Byte} (h : 16 < len.toNat) (data : Block) :
    crc32Response len data = .raise .reject .size := by
  rw [crc32Response, crcOperand_of_gt h]

/-- Settles O24: the response is given, and `SEQ` is as it was. -/
theorem crc32AnswersChecksumOfFirstBytes : Obligations.Crc32AnswersChecksumOfFirstBytes := by
  intro s len data hlen
  rw [exec_eq, answerOf, crc32Response_of_le hlen]
  rfl

/-- Settles O25: CRC32 has no operand, so the response has no field. -/
theorem crc32RejectsMoreThanSixteenBytes : Obligations.Crc32RejectsMoreThanSixteenBytes := by
  intro s len data hlen
  rw [exec_eq, answerOf, crc32Response_of_gt hlen]
  rfl

end Sys2Proof.Machine
end

section
/-!
PROOFS. The frame codec (41_frame_codec R100 to R112): BUILD writes a frame that passes every check; PARSE answers the fields of such a
frame and the first failing step of any other, as the multiplexer does; and each byte of a valid frame is held by exactly one check.
-/

namespace Sys2Proof.Machine

variable {cfg : Config} {f : Block} {len : Byte} {s : State}

/-! ## What PARSE answers -/

theorem parseFrame_of_le (h : 16 ≤ len.toNat) : parseFrame cfg f len = validateFrame cfg f :=
  parseFrame_of_operand cfg len f (frameOperand_of_le h)

theorem parseFrame_of_lt (h : len.toNat < 16) : parseFrame cfg f len = .reject .size := by
  rw [parseFrame, frameOperand_of_lt h]

theorem exec_parse_of_reject {d : Diag} (h : parseFrame s.cfg f len = .reject d) :
    exec (.parse len f) s = .next { s with responses := s.responses ++ [{ status := .reject, diag := d }] } := by
  rw [exec_eq, answerOf, parseResponse, h]
  rfl

theorem exec_parse_of_accept {x : ParsedFrame} (h : parseFrame s.cfg f len = .accept x) :
    exec (.parse len f) s = .next { s with responses := s.responses ++
      [{ status := .ok, diag := .none, cmd := some x.cmd, left := some x.left, right := some x.right,
         seq := some x.seq, rsv := some x.rsv, crc := some x.crc }] } := by
  rw [exec_eq, answerOf, parseResponse, h]
  rfl

/-! ## The failing steps, in their order (60_exceptions R164) -/

theorem validateFrame_reject_magic (hm : magicField f ≠ cfg.magic) : validateFrame cfg f = .reject .magic := by
  rw [validateFrame, if_pos hm]

theorem validateFrame_reject_version (hm : magicField f = cfg.magic) (hv : f[4] ≠ cfg.version) :
    validateFrame cfg f = .reject .version := by
  rw [validateFrame, if_neg (not_not_intro hm), if_pos hv]

theorem validateFrame_reject_checksum (hm : magicField f = cfg.magic) (hv : f[4] = cfg.version)
    (hc : storedChecksum cfg f ≠ crc32 (covered f)) : validateFrame cfg f = .reject .checksum := by
  rw [validateFrame, if_neg (not_not_intro hm), if_neg (not_not_intro hv), if_pos hc]

/-- Settles O34: the size test comes before validation, and each step of validation is reached past the earlier ones. -/
theorem parseRejectsAtFirstFailingStep : Obligations.ParseRejectsAtFirstFailingStep := by
  intro s len f
  refine ⟨fun hlen => ?size, fun hlen hm => ?magic, fun hlen hm hv => ?version, fun hlen hm hv hc => ?checksum⟩ <;>
    apply exec_parse_of_reject
  case size => exact parseFrame_of_lt hlen
  all_goals rw [parseFrame_of_le hlen]
  case magic => exact validateFrame_reject_magic hm
  case version => exact validateFrame_reject_version hm hv
  case checksum => exact validateFrame_reject_checksum hm hv hc

/-! ## A frame that passes every check -/

/-- Settles O33: `k` is the stored checksum under either order, so the frame is accepted with its own values. -/
theorem parseAnswersFieldsOfValidFrame : Obligations.ParseAnswersFieldsOfValidFrame := by
  intro s len f k hlen hm hv hk hle hbe
  have hstored : storedChecksum s.cfg f = k := by
    cases horder : s.cfg.crcOrder with
    | le => rw [storedChecksum, horder, hle horder]; rfl
    | be => rw [storedChecksum, horder, hbe horder]; rfl
  have haccept : parseFrame s.cfg f len = .accept (frameValues s.cfg f) := by
    rw [parseFrame_of_le hlen]
    exact validateFrame_accept hm hv (hstored.trans hk)
  rw [exec_parse_of_accept haccept, ← hstored]
  rfl

/-! ## The multiplexer (41_frame_codec R108) -/

/-- The multiplexer rejects a short buffer whatever the other checks give. -/
theorem checks_of_short {c : Checks} (h : c.sizeOk = false) : c.status = .reject ∧ c.diag = .size := by
  simp [Checks.status, Checks.diag, Checks.accept, h]

theorem frameChecks_of_reject {d : Diag} (h : validateFrame cfg f = .reject d) :
    (frameChecks cfg true true f).status = .reject ∧ (frameChecks cfg true true f).diag = d := by
  obtain ⟨hm, hr⟩ | ⟨hm, hv, hr⟩ | ⟨hm, hv, hc, hr⟩ | ⟨-, -, -, hr⟩ := validateFrame_cases cfg f <;>
    rw [hr] at h <;> cases h
  all_goals simp [frameChecks, Checks.status, Checks.diag, Checks.accept, *]

theorem frameChecks_of_accept {x : ParsedFrame} (h : validateFrame cfg f = .accept x) :
    x = frameValues cfg f ∧ (frameChecks cfg true true f).status = .ok ∧ (frameChecks cfg true true f).diag = .none := by
  obtain ⟨-, hr⟩ | ⟨-, -, hr⟩ | ⟨-, -, -, hr⟩ | ⟨hm, hv, hc, hr⟩ := validateFrame_cases cfg f <;>
    rw [hr] at h <;> cases h
  simp [frameChecks, Checks.status, Checks.diag, Checks.accept, hm, hv, hc]

/-- Settles O35: a short buffer fails the size input of the multiplexer, and on the others it merges what validation tests. -/
theorem parseAgreesWithMultiplexer : Obligations.ParseAgreesWithMultiplexer := by
  intro s len f
  rcases Nat.lt_or_ge len.toNat 16 with hlen | hlen
  · obtain ⟨hstatus, hdiag⟩ := checks_of_short (c := frameChecks s.cfg (decide (16 ≤ len.toNat)) true f)
      (decide_eq_false (Nat.not_le.2 hlen))
    exact ⟨_, exec_parse_of_reject (parseFrame_of_lt hlen), hstatus.symm, hdiag.symm, by simp, fun _ => rfl⟩
  · rw [decide_eq_true hlen]
    have hparse : parseFrame s.cfg f len = validateFrame s.cfg f := parseFrame_of_le hlen
    cases hv : validateFrame s.cfg f with
    | reject d =>
      obtain ⟨hstatus, hdiag⟩ := frameChecks_of_reject hv
      exact ⟨_, exec_parse_of_reject (hparse.trans hv), hstatus.symm, hdiag.symm, by simp, fun _ => rfl⟩
    | accept x =>
      obtain ⟨rfl, hstatus, hdiag⟩ := frameChecks_of_accept hv
      exact ⟨_, exec_parse_of_accept (hparse.trans hv), hstatus.symm, hdiag.symm, fun _ => rfl, by simp⟩

/-! ## Built frames -/

theorem exec_build (c l r q : Byte) (s : State) :
    exec (.build c l r q) s = .next { s with responses := s.responses ++
      [{ status := .ok, diag := .none, out := some (buildFrame s.cfg c l r q),
         crc := some (crc32 (covered (buildFrame s.cfg c l r q))) }] } := rfl

/-- The last four bytes of a built frame. -/
theorem drop_toList_buildFrame (cfg : Config) (c l r q : Byte) :
    (buildFrame cfg c l r q).toList.drop 12 = (stampBytes cfg (covered (buildFrame cfg c l r q))).toList := by
  rw [buildFrame, toList_stamp, List.drop_left' (covered_length _), covered_stamp]

/-- Settles O31: a built frame is its covered span and the stamp of that span. -/
theorem buildWritesFrameLayout : Obligations.BuildWritesFrameLayout := by
  intro s c l r q
  refine ⟨_, _, exec_build c l r q s, rfl, ?covered, fun horder => ?le, fun horder => ?be⟩
  case covered =>
    rw [quad_toList]
    exact covered_buildFrame s.cfg c l r q
  case le | be =>
    rw [drop_toList_buildFrame, stampBytes, horder]
    rfl

theorem parseFrame_buildFrame (cfg : Config) (c l r q : Byte) :
    parseFrame cfg (buildFrame cfg c l r q) 16 = .accept
      { cmd := decodeCommand c, left := l, right := r, seq := q, rsv := #v[0, 0, 0],
        crc := crc32 (covered (buildFrame cfg c l r q)) } := by
  rw [parseFrame_of_le (by decide), validateFrame_accept (by simp) (by simp) (by simp), ← storedChecksum_buildFrame]
  rfl

/-- Settles O36: the built frame passes every check, and its values are the operands. -/
theorem codecRoundTrip : Obligations.CodecRoundTrip := fun s c l r q =>
  ⟨_, _, exec_build c l r q s, rfl, exec_parse_of_accept (parseFrame_buildFrame s.cfg c l r q)⟩

/-- Settles O23: byte 5 of the built frame is the command operand, and PARSE decodes that byte as its row does. -/
theorem commandByteRowsAgreeWithCodec : Obligations.CommandByteRowsAgreeWithCodec := fun s b l r q =>
  ⟨_, _, buildFrame s.cfg b l r q, decodeCommand b, _, _, exec_build b l r q s, rfl, rfl,
    exec_parse_of_accept (parseFrame_buildFrame s.cfg b l r q), rfl, rfl,
    exec_of_encode_commandByte (encode_commandRow b) s⟩

/-! ## A valid frame changed in one byte -/

theorem magicField_getElem (f : Block) {k : Nat} (hk : k < 4) : (magicField f)[k] = f[k] := by
  interval_cases k <;> rfl

theorem checksumField_getElem (f : Block) {k : Nat} (hk : k < 4) : (checksumField f)[k] = f[12 + k] := by
  interval_cases k <;> rfl

section ByteChange
variable {i : Nat} (hi : i < 16) (b : Byte)

theorem magicField_set_of_ge (h : 4 ≤ i) : magicField (f.set i b) = magicField f := by
  ext k hk : 1
  rw [magicField_getElem _ hk, magicField_getElem _ hk, Vector.getElem_set_ne _ _ (by omega)]

theorem checksumField_set_of_lt (h : i < 12) : checksumField (f.set i b) = checksumField f := by
  ext k hk : 1
  rw [checksumField_getElem _ hk, checksumField_getElem _ hk, Vector.getElem_set_ne _ _ (by omega)]

theorem covered_set : covered (f.set i b) = (covered f).set i b := by
  rw [covered, covered, Vector.toList_set, List.take_set]

theorem magicField_set_ne (h : i < 4) (hb : b ≠ f[i]) : magicField (f.set i b) ≠ magicField f := by
  intro heq
  have hbyte : (magicField (f.set i b))[i] = (magicField f)[i] := by rw [heq]
  rw [magicField_getElem _ h, magicField_getElem _ h, Vector.getElem_set_self] at hbyte
  exact hb hbyte

/-- The checksum fixes every byte of the covered span. -/
theorem crc32_covered_set_ne (h : i < 12) (hb : b ≠ f[i]) : crc32 (covered (f.set i b)) ≠ crc32 (covered f) := by
  intro heq
  have hlen : i < (covered f).length := by rwa [covered_length]
  have hself : covered f = (covered f).set i f[i] := by rw [← covered_set hi, Vector.set_getElem_self]
  rw [covered_set] at heq
  exact hb (crc32_set_inj hlen (heq.trans (congrArg crc32 hself)))

/-- The value of the checksum field fixes every byte of it. -/
theorem storedChecksum_set_ne (h : 12 ≤ i) (hb : b ≠ f[i]) : storedChecksum cfg (f.set i b) ≠ storedChecksum cfg f := by
  intro heq
  obtain ⟨k, rfl⟩ := Nat.exists_eq_add_of_le h
  have hk : k < 4 := by omega
  have hbyte : (checksumField (f.set (12 + k) b))[k] = (checksumField f)[k] := by rw [checksumValue_inj heq]
  rw [checksumField_getElem _ hk, checksumField_getElem _ hk, Vector.getElem_set_self] at hbyte
  exact hb hbyte

/-- A changed byte after the version breaks the checksum: either the covered span changes or the stored value does, never both. -/
theorem checksum_mismatch_of_set (hc : storedChecksum cfg f = crc32 (covered f)) (hb : b ≠ f[i]) :
    storedChecksum cfg (f.set i b) ≠ crc32 (covered (f.set i b)) := by
  rcases Nat.lt_or_ge i 12 with h | h
  · have hstored : storedChecksum cfg (f.set i b) = storedChecksum cfg f := by
      rw [storedChecksum, checksumField_set_of_lt hi b h, storedChecksum]
    rw [hstored, hc]
    exact (crc32_covered_set_ne hi b h hb).symm
  · have hcovered : covered (f.set i b) = covered f := by
      rw [covered_set, List.set_eq_of_length_le (by rwa [covered_length])]
    rw [hcovered, ← hc]
    exact storedChecksum_set_ne hi b h hb

/-- Each byte of a valid frame is held by one check: magic, version or checksum. -/
theorem validateFrame_set (hm : magicField f = cfg.magic) (hv : f[4] = cfg.version)
    (hc : storedChecksum cfg f = crc32 (covered f)) (hb : b ≠ f[i]) :
    validateFrame cfg (f.set i b) = .reject (if i < 4 then .magic else if i = 4 then .version else .checksum) := by
  rcases Nat.lt_trichotomy i 4 with h | rfl | h
  · rw [if_pos h]
    exact validateFrame_reject_magic (hm ▸ magicField_set_ne hi b h hb)
  · refine validateFrame_reject_version ((magicField_set_of_ge hi b le_rfl).trans hm) ?_
    rwa [Vector.getElem_set_self, ← hv]
  · rw [if_neg (by omega), if_neg (by omega)]
    refine validateFrame_reject_checksum ((magicField_set_of_ge hi b h.le).trans hm) ?_ (checksum_mismatch_of_set hi b hc hb)
    rwa [Vector.getElem_set_ne _ _ (by omega)]

end ByteChange

theorem xor_bit_ne (x : Byte) {j : Nat} (hj : j < 8) : x ^^^ 1#8 <<< j ≠ x := by
  intro h
  have hbit := congrArg (·.getLsbD j) h
  simp [hj] at hbit

/-- Settles O37: a built frame is valid, and one bit more or less makes its byte another one. -/
theorem singleBitChangeOfBuiltFrameIsRejected : Obligations.SingleBitChangeOfBuiltFrameIsRejected := by
  intro s c l r q i hi j hj
  apply exec_parse_of_reject
  rw [parseFrame_of_le (by decide)]
  exact validateFrame_set hi _ (by simp) (by simp) (by simp) (xor_bit_ne _ hj)

/-! ## The command map -/

/-- Settles O20: the six known bytes one by one; a byte above 5 is none of those the decoder tests for. -/
theorem decodeCommandCoercesUnknownToStop : Obligations.DecodeCommandCoercesUnknownToStop := by
  refine fun b => ⟨fun h => ?known, fun h => ?unknown⟩
  case known =>
    have hb : b = 0 ∨ b = 1 ∨ b = 2 ∨ b = 3 ∨ b = 4 ∨ b = 5 := by bv_omega
    rcases hb with rfl | rfl | rfl | rfl | rfl | rfl <;> rfl
  case unknown =>
    have hb : b ≠ 0 ∧ b ≠ 1 ∧ b ≠ 2 ∧ b ≠ 3 ∧ b ≠ 4 ∧ b ≠ 5 := by bv_omega
    simp only [decodeCommand, hb, if_false]

end Sys2Proof.Machine
end

section
/-!
PROOFS. The AES datapath (42_confidentiality R121 to R135): the S-box from field arithmetic, the row rotation, the recurrence of the key
schedule, and the two ciphers undoing each other round by round.
-/

namespace Sys2Proof.Machine

/-! ## The S-box (R123) -/

/-- The affine map of R123. -/
def affineMap (v : Byte) : Byte :=
  v ^^^ v.rotateLeft 1 ^^^ v.rotateLeft 2 ^^^ v.rotateLeft 3 ^^^ v.rotateLeft 4 ^^^ 0x63

/-- The affine map taken back. -/
def affineMapInverse (y : Byte) : Byte :=
  y.rotateLeft 1 ^^^ y.rotateLeft 3 ^^^ y.rotateLeft 6 ^^^ 0x05

theorem affineMap_affineMapInverse : ∀ y : Byte, affineMap (affineMapInverse y) = y := by decide +kernel

/-- Behind the affine map, every entry of the table is the inverse of its index in the field of R122. -/
theorem gmul_affineMapInverse_sbox : ∀ a : Byte, a ≠ 0 → gmul a (affineMapInverse (sbox a)) = 1 := by decide +kernel

/-- Settles O39: the inverse of the index is found from the entry, by taking the affine map back. -/
theorem sboxFollowsInverseAndAffineMap : Obligations.SboxFollowsInverseAndAffineMap := fun a =>
  ⟨affineMapInverse (sbox a), by rintro rfl; rfl, gmul_affineMapInverse_sbox a, (affineMap_affineMapInverse (sbox a)).symm⟩

/-! ## Rows and columns (R121, R126) -/

/-- Column `c` of row `r` comes from column `c + r` modulo 4 of that row. -/
theorem shiftIndex_row_column : ∀ r c : Fin 4,
    (shiftIndex[r.val + 4 * c.val]).val = r.val + 4 * ((c.val + r.val) % 4) := by decide

theorem shiftRows_getElem (t : Block) {r c : Nat} (hr : r < 4) (hc : c < 4) :
    (shiftRows t)[r + 4 * c] = t[r + 4 * ((c + r) % 4)] := by
  simp only [shiftRows, Vector.getElem_ofFn, Fin.getElem_fin]
  exact getElem_congr_idx (shiftIndex_row_column ⟨r, hr⟩ ⟨c, hc⟩)

/-- Settles O40: the inverse rotation is read off the rotation of its result, which is the block itself. -/
theorem shiftRowsRotatesRowByItsNumber : Obligations.ShiftRowsRotatesRowByItsNumber := by
  intro t r c hr hc
  refine ⟨shiftRows_getElem t hr hc, ?_⟩
  rw [← shiftRows_getElem (invShiftRows t) hr hc]
  simp only [shiftRows_invShiftRows]

/-! ## The key schedule (R130, R131) -/

/-- Expansion only adds words at the end. -/
theorem isPrefix_expandFrom (nk n : Nat) (w : List Quad) : w <+: expandFrom nk n w := by
  induction n generalizing w with
  | zero => exact List.prefix_refl w
  | succ n ih => exact (List.prefix_append w _).trans (ih _)

theorem expandFrom_getD_of_lt (nk n : Nat) {w : List Quad} {i : Nat} (hi : i < w.length) :
    (expandFrom nk n w).getD i zeroQuad = w.getD i zeroQuad := by
  obtain ⟨added, hadded⟩ := isPrefix_expandFrom nk n w
  rw [← hadded, List.getD_append _ _ _ _ hi]

theorem expandFrom_length (nk n : Nat) (w : List Quad) : (expandFrom nk n w).length = w.length + n := by
  induction n generalizing w with
  | zero => rfl
  | succ n ih =>
    rw [expandFrom, ih, List.length_append, List.length_singleton]
    omega

/-- Every added word is made from the word `nk` before it and the word before it. -/
theorem expandFrom_getD_of_ge {nk : Nat} (hnk : 0 < nk) (n : Nat) {w : List Quad} (hw : 0 < w.length) {i : Nat}
    (hi : w.length ≤ i) (hin : i < w.length + n) :
    (expandFrom nk n w).getD i zeroQuad = xorQuad ((expandFrom nk n w).getD (i - nk) zeroQuad)
      (scheduleTmp nk i ((expandFrom nk n w).getD (i - 1) zeroQuad)) := by
  induction n generalizing w with
  | zero => omega
  | succ n ih =>
    rcases Nat.eq_or_lt_of_le hi with rfl | hlt
    case inl =>
      rw [expandFrom_getD_of_lt nk (n + 1) (i := w.length - nk) (by omega),
        expandFrom_getD_of_lt nk (n + 1) (i := w.length - 1) (by omega), expandFrom,
        expandFrom_getD_of_lt nk n (by simp)]
      simp
    case inr =>
      have hlen (x : Quad) : (w ++ [x]).length = w.length + 1 := by simp
      exact ih (by rw [hlen]; omega) (by rw [hlen]; omega) (by rw [hlen]; omega)

theorem keyExpansion_length (key : List Byte) : (keyExpansion 8 14 key).length = 60 := by
  rw [keyExpansion, expandFrom_length, List.length_map, List.length_range]

/-- A word of the schedule is read by `getD` as by `[·]?`. -/
theorem keyExpansion_getElem? (key : List Byte) {i : Nat} (hi : i < 60) :
    (keyExpansion 8 14 key)[i]? = some ((keyExpansion 8 14 key).getD i zeroQuad) := by
  rw [List.getD_eq_getElem _ _ (keyExpansion_length key ▸ hi), List.getElem?_eq_getElem]

/-- The schedule begins with the words of the key. -/
theorem keyExpansion_getD_of_lt (key : List Byte) {i : Nat} (hi : i < 8) :
    (keyExpansion 8 14 key).getD i zeroQuad = keyWord key i := by
  rw [keyExpansion, expandFrom_getD_of_lt _ _ (by simpa using hi)]
  simp [hi]

theorem keyExpansion_getD_of_ge (key : List Byte) {i : Nat} (hi : 8 ≤ i) (hi60 : i < 60) :
    (keyExpansion 8 14 key).getD i zeroQuad = xorQuad ((keyExpansion 8 14 key).getD (i - 8) zeroQuad)
      (scheduleTmp 8 i ((keyExpansion 8 14 key).getD (i - 1) zeroQuad)) := by
  have hlen : ((List.range 8).map (keyWord key)).length = 8 := by simp
  exact expandFrom_getD_of_ge (by decide) 52 (by omega) (by omega) (by omega)

/-- The three cases of a word of a 256-bit key's schedule, byte by byte. -/
theorem scheduleTmp_eight (i : Nat) (p : Quad) :
    scheduleTmp 8 i p =
      if i % 8 = 0 then #v[sbox p[1] ^^^ rcon (i / 8), sbox p[2], sbox p[3], sbox p[0]]
      else if i % 8 = 4 then #v[sbox p[0], sbox p[1], sbox p[2], sbox p[3]]
      else p := by
  have hround : xorQuad (subWord (rotWord p)) #v[rcon (i / 8), 0, 0, 0] =
      #v[sbox p[1] ^^^ rcon (i / 8), sbox p[2], sbox p[3], sbox p[0]] := by
    change #v[sbox p[1] ^^^ rcon (i / 8), sbox p[2] ^^^ 0, sbox p[3] ^^^ 0, sbox p[0] ^^^ 0] = _
    simp
  have hsub : subWord p = #v[sbox p[0], sbox p[1], sbox p[2], sbox p[3]] := rfl
  rw [scheduleTmp, hround, hsub]
  simp

/-- Settles O41: the words of the key stay in front, and each added word is made by `scheduleTmp`. -/
theorem keyScheduleFollowsRecurrence : Obligations.KeyScheduleFollowsRecurrence := by
  refine ⟨⟨rfl, fun j hj => ?rcon⟩, fun key _ => ⟨keyExpansion_length key, fun i hi => ?key, fun i hi hi60 => ?added⟩⟩
  case rcon =>
    obtain ⟨k, rfl⟩ := Nat.exists_eq_add_of_le' hj
    rfl
  case key =>
    rw [keyExpansion_getElem? key (by omega), keyExpansion_getD_of_lt key hi]
    rfl
  case added =>
    refine ⟨_, _, keyExpansion_getElem? key (by omega), keyExpansion_getElem? key (by omega), ?_⟩
    rw [keyExpansion_getElem? key hi60, keyExpansion_getD_of_ge key hi hi60, scheduleTmp_eight]

/-! ## The cipher and the inverse cipher (R133 to R135) -/

section Rounds
variable (nr n k : Nat) (w : List Quad) (t b : Block)

/-- A full round of the inverse cipher takes back the full round `k` of the cipher, as seen behind the substitution and row rotation of
the round after it. -/
theorem decryptRound_encryptRound :
    decryptRound w k (shiftRows (subBytes (encryptRound w k t))) = shiftRows (subBytes t) := by
  simp [decryptRound, encryptRound]

theorem encryptRound_decryptRound :
    encryptRound w k (invSubBytes (invShiftRows (decryptRound w k t))) = invSubBytes (invShiftRows t) := by
  simp [decryptRound, encryptRound]

theorem decryptRounds_encryptRounds :
    decryptRounds w n (shiftRows (subBytes (encryptRounds w n t))) = shiftRows (subBytes t) := by
  induction n with
  | zero => rfl
  | succ n ih => rw [encryptRounds, decryptRounds, decryptRound_encryptRound, ih]

theorem encryptRounds_decryptRounds :
    encryptRounds w n (invSubBytes (invShiftRows (decryptRounds w n t))) = invSubBytes (invShiftRows t) := by
  induction n generalizing t with
  | zero => rfl
  | succ n ih => rw [encryptRounds, decryptRounds, ih, encryptRound_decryptRound]

@[simp] theorem aesDecryptBlock_aesEncryptBlock : aesDecryptBlock nr w (aesEncryptBlock nr w b) = b := by
  simp [aesDecryptBlock, aesEncryptBlock, encryptLastRound, decryptLastRound, decryptRounds_encryptRounds]

@[simp] theorem aesEncryptBlock_aesDecryptBlock : aesEncryptBlock nr w (aesDecryptBlock nr w b) = b := by
  simp [aesDecryptBlock, aesEncryptBlock, encryptLastRound, decryptLastRound, encryptRounds_decryptRounds]

end Rounds

/-- Settles O42: round by round, for any number of rounds. -/
theorem aesCipherAndInverseUndoEachOther : Obligations.AesCipherAndInverseUndoEachOther := fun w b =>
  ⟨aesDecryptBlock_aesEncryptBlock 14 w b, aesEncryptBlock_aesDecryptBlock 14 w b⟩

end Sys2Proof.Machine
end

section
/-!
PROOFS. The operations of the Confidentiality Layer (42_confidentiality R136 to R145): with a key of 32 bytes ENCRYPT and DECRYPT answer
one CBC block, which the other takes back; with any other key every cipher operation answers CIPHER_FAIL.
-/

namespace Sys2Proof.Machine

/-- An operation other than SEND adds its response and changes nothing else. -/
theorem exec_of_response {i : Instr} {s : State} {r : Response} (hi : ∀ c l q, i ≠ .send c l q)
    (hr : answerOf s.cfg s.seq i = .response r) : exec i s = .next { s with responses := s.responses ++ [r] } := by
  rw [exec_of_ne_send hi, hr]
  rfl

/-! ## The single-block CBC step (R137, R138) -/

@[simp] theorem cbc1Decrypt_cbc1Encrypt (cfg : Config) (w : List Quad) (p : Block) :
    cbc1Decrypt cfg w (cbc1Encrypt cfg w p) = p := by
  simp [cbc1Decrypt, cbc1Encrypt]

@[simp] theorem cbc1Encrypt_cbc1Decrypt (cfg : Config) (w : List Quad) (c : Block) :
    cbc1Encrypt cfg w (cbc1Decrypt cfg w c) = c := by
  simp [cbc1Decrypt, cbc1Encrypt]

theorem cbc1Encrypt_injective (cfg : Config) (w : List Quad) : Function.Injective (cbc1Encrypt cfg w) :=
  Function.LeftInverse.injective (cbc1Decrypt_cbc1Encrypt cfg w)

/-! ## A key of 32 bytes -/

section WellFormedKey
variable {s : State} {len : Byte} (hlen : 16 ≤ len.toNat) (hkey : s.cfg.key.length = 32) (b : Block)
include hlen hkey

theorem exec_encrypt_of_key :
    exec (.encrypt len b) s = .next { s with responses := s.responses ++
      [{ status := .ok, diag := .none, out := some (cbc1Encrypt s.cfg (keyExpansion aesNk aesNr s.cfg.key) b) }] } := by
  refine exec_of_response nofun ?_
  rw [answerOf, encryptResponse, frameOperand_of_le hlen, keySetup_of_length hkey]
  rfl

theorem exec_decrypt_of_key :
    exec (.decrypt len b) s = .next { s with responses := s.responses ++
      [{ status := .ok, diag := .none, out := some (cbc1Decrypt s.cfg (keyExpansion aesNk aesNr s.cfg.key) b) }] } := by
  refine exec_of_response nofun ?_
  rw [answerOf, decryptResponse, frameOperand_of_le hlen, keySetup_of_length hkey]
  rfl

end WellFormedKey

/-- Settles O43: the CBC step, written out. -/
theorem encryptAnswersOneCbcBlock : Obligations.EncryptAnswersOneCbcBlock := fun _ _ p hlen hkey =>
  exec_encrypt_of_key hlen hkey p

/-- Settles O44: the CBC step, written out. -/
theorem decryptAnswersOneCbcBlock : Obligations.DecryptAnswersOneCbcBlock := fun _ _ c hlen hkey =>
  exec_decrypt_of_key hlen hkey c

/-- Settles O45: the two CBC steps under one key schedule undo each other. -/
theorem encryptAndDecryptUndoEachOther : Obligations.EncryptAndDecryptUndoEachOther := by
  intro s b hkey
  have hlen : 16 ≤ (16 : Byte).toNat := by decide
  refine ⟨⟨_, exec_encrypt_of_key hlen hkey b, ?_⟩, ⟨_, exec_decrypt_of_key hlen hkey b, ?_⟩⟩
  · rw [exec_decrypt_of_key hlen hkey, cbc1Decrypt_cbc1Encrypt]
  · rw [exec_encrypt_of_key hlen hkey, cbc1Encrypt_cbc1Decrypt]

/-- Settles O46: both states have one configuration, so one CBC step answers both, and it is injective. -/
theorem ciphertextsAreEqualExactlyWhenPlaintextsAre : Obligations.CiphertextsAreEqualExactlyWhenPlaintextsAre := by
  intro s s' p p' hcfg hkey
  have hlen : 16 ≤ (16 : Byte).toNat := by decide
  refine ⟨_, _, ?_, exec_encrypt_of_key hlen hkey p, exec_encrypt_of_key hlen (hcfg ▸ hkey) p'⟩
  rw [← hcfg]
  exact (cbc1Encrypt_injective s.cfg _).eq_iff

/-! ## A key of another length -/

section MalformedKey
variable {s : State} {len : Byte} (hkey : s.cfg.key.length ≠ 32) (data : Block) (c l r q : Byte)
include hkey

theorem exec_tx_of_malformed_key :
    exec (.tx c l r q) s = .next { s with responses := s.responses ++ [{ status := .cipherFail, diag := .keySetup }] } := by
  refine exec_of_response nofun ?_
  rw [answerOf, txResponse, keySetup_of_length_ne hkey]
  rfl

/-- SEND advances `SEQ` all the same (43_entry_points R156). -/
theorem exec_send_of_malformed_key :
    exec (.send c l r) s = .next { s with
      seq := nextSeq s.seq
      responses := s.responses ++ [{ status := .cipherFail, diag := .keySetup, seq := some s.seq }] } := by
  rw [exec_eq, answerOf, sendResponse, keySetup_of_length_ne hkey]
  rfl

/-- Past the size test, the buffer operations end at key setup (60_exceptions R164). -/
theorem exec_buffer_of_malformed_key (hlen : 16 ≤ len.toNat) {i : Instr}
    (hi : i ∈ [Instr.encrypt len data, .decrypt len data, .rx len data]) :
    exec i s = .next { s with responses := s.responses ++ [{ status := .cipherFail, diag := .keySetup }] } := by
  have hoperand : frameOperand len data = some data := frameOperand_of_le hlen
  have hsetup := keySetup_of_length_ne hkey
  simp only [List.mem_cons, List.not_mem_nil, or_false] at hi
  rcases hi with rfl | rfl | rfl <;> refine exec_of_response nofun ?_
  · rw [answerOf, encryptResponse, hoperand, hsetup]; rfl
  · rw [answerOf, decryptResponse, hoperand, hsetup]; rfl
  · rw [answerOf, rxResponse, hoperand, hsetup]; rfl

end MalformedKey

/-- Settles O48: each operation ends at key setup; the `SEQ` of SEND is written out as a number. -/
theorem malformedKeyFailsEveryCipherOperation : Obligations.MalformedKeyFailsEveryCipherOperation := by
  intro s len data c l r q hkey
  refine ⟨fun hlen i hi => exec_buffer_of_malformed_key hkey data hlen hi, exec_tx_of_malformed_key hkey c l r q, ?_⟩
  rw [exec_send_of_malformed_key hkey, ← nextSeq_toNat, BitVec.ofNat_toNat, BitVec.setWidth_eq]

end Sys2Proof.Machine
end

section
/-!
PROOFS. The entry points (43_entry_points R150 to R158): TX is BUILD followed by ENCRYPT, RX is DECRYPT followed by PARSE without the
reserved bytes and the checksum, and SEND is TX with `SEQ` as its operand, plus the increment. What a receiver gets from a sender's
ciphertext follows from the round trips of the codec and of the CBC step.
-/

namespace Sys2Proof.Machine

variable {cfg : Config} {s : State} {len : Byte}

/-! ## SEND and TX -/

/-- The value of `SEQ` after `q`, written out as a number (10_state R23). -/
theorem ofNat_succ_mod_eq_nextSeq (q : Byte) : BitVec.ofNat 8 ((q.toNat + 1) % 256) = nextSeq q := by
  rw [← nextSeq_toNat, BitVec.ofNat_toNat, BitVec.setWidth_eq]

/-- SEND answers what TX answers with `q` as its sequence operand, and `q` besides (R157). -/
theorem sendResponse_eq_txResponse (cfg : Config) (q c l r : Byte) :
    sendResponse cfg q c l r = { txResponse cfg c l r q with seq := some q } := by
  obtain ⟨-, hk⟩ | ⟨-, hk⟩ := keySetup_cases cfg <;> rw [sendResponse, txResponse, hk]

theorem exec_send (c l r : Byte) (s : State) :
    exec (.send c l r) s = .next { s with
      seq := nextSeq s.seq
      responses := s.responses ++ [{ txResponse s.cfg c l r s.seq with seq := some s.seq }] } := by
  rw [exec_eq, answerOf, sendResponse_eq_txResponse]
  rfl

/-- Settles O56: the response of SEND is that of TX but for `seq`, whatever the key. -/
theorem sendEqualsTxWithCounterPlusIncrement : Obligations.SendEqualsTxWithCounterPlusIncrement := fun s c l r =>
  ⟨_, _, exec_of_response nofun rfl, exec_send c l r s, rfl, rfl⟩

/-- Settles O55: the counter after a SEND with a malformed key, written out as a number. -/
theorem failedSendAdvancesSequenceCounter : Obligations.FailedSendAdvancesSequenceCounter := by
  intro s c l r hkey
  rw [exec_send_of_malformed_key hkey, ofNat_succ_mod_eq_nextSeq]

theorem txResponse_of_key (hkey : cfg.key.length = 32) (c l r q : Byte) :
    txResponse cfg c l r q =
      { status := .ok, diag := .none,
        out := some (cbc1Encrypt cfg (keyExpansion aesNk aesNr cfg.key) (buildFrame cfg c l r q)) } := by
  rw [txResponse, keySetup_of_length hkey]
  rfl

theorem exec_tx_of_key (hkey : s.cfg.key.length = 32) (c l r q : Byte) :
    exec (.tx c l r q) s = .next { s with responses := s.responses ++
      [{ status := .ok, diag := .none,
         out := some (cbc1Encrypt s.cfg (keyExpansion aesNk aesNr s.cfg.key) (buildFrame s.cfg c l r q)) }] } :=
  exec_of_response nofun (congrArg Output.response (txResponse_of_key hkey c l r q))

/-- Settles O54: SEND is TX with `SEQ`, and TX answers the CBC block of the built frame. -/
theorem sendUsesAndAdvancesSequenceCounter : Obligations.SendUsesAndAdvancesSequenceCounter := by
  intro s c l r hkey
  rw [exec_send, txResponse_of_key hkey, ofNat_succ_mod_eq_nextSeq]
  rfl

/-- Settles O50: ENCRYPT of the built frame answers the block TX answers. -/
theorem txEqualsBuildThenEncrypt : Obligations.TxEqualsBuildThenEncrypt := fun s c l r q hkey =>
  ⟨buildFrame s.cfg c l r q, _, _, exec_build c l r q s, exec_encrypt_of_key (by decide) hkey _, exec_tx_of_key hkey c l r q⟩

/-! ## RX and PARSE -/

section WellFormedKey
variable (hlen : 16 ≤ len.toNat) (hkey : s.cfg.key.length = 32) {d p : Block}
  (hp : cbc1Decrypt s.cfg (keyExpansion aesNk aesNr s.cfg.key) d = p)
include hlen hkey hp

/-- Past the size test and key setup, RX answers by the validation of the decrypted bytes (R153). -/
theorem exec_rx_of_reject {step : Diag} (hv : validateFrame s.cfg p = .reject step) :
    exec (.rx len d) s = .next { s with responses := s.responses ++ [{ status := .reject, diag := step }] } := by
  refine exec_of_response nofun ?_
  subst hp
  simp only [answerOf, rxResponse, frameOperand_of_le hlen, keySetup_of_length hkey, hv]
  rfl

theorem exec_rx_of_accept {x : ParsedFrame} (hv : validateFrame s.cfg p = .accept x) :
    exec (.rx len d) s = .next { s with responses := s.responses ++
      [{ status := .ok, diag := .none, cmd := some x.cmd, left := some x.left, right := some x.right,
         seq := some x.seq }] } := by
  refine exec_of_response nofun ?_
  subst hp
  simp only [answerOf, rxResponse, frameOperand_of_le hlen, keySetup_of_length hkey, hv]
  rfl

end WellFormedKey

/-- Settles O51: PARSE and RX validate the same decrypted bytes. -/
theorem rxEqualsDecryptThenParse : Obligations.RxEqualsDecryptThenParse := by
  intro s len d hlen hkey
  have hdecrypt := exec_decrypt_of_key hlen hkey d
  generalize hp : cbc1Decrypt s.cfg (keyExpansion aesNk aesNr s.cfg.key) d = p at hdecrypt
  have hparse : parseFrame s.cfg p 16 = validateFrame s.cfg p := parseFrame_of_le (by decide)
  cases hv : validateFrame s.cfg p with
  | reject step =>
    exact ⟨p, _, _, hdecrypt, exec_parse_of_reject (hparse.trans hv), exec_rx_of_reject hlen hkey hp hv,
      rfl, rfl, rfl, rfl, rfl⟩
  | accept x =>
    exact ⟨p, _, _, hdecrypt, exec_parse_of_accept (hparse.trans hv), exec_rx_of_accept hlen hkey hp hv,
      rfl, rfl, rfl, rfl, rfl⟩

/-- Settles O52: decrypted bytes that pass the three checks are accepted with their own values. -/
theorem rxAnswersCommandOfValidCiphertext : Obligations.RxAnswersCommandOfValidCiphertext :=
  fun _ _ _ _ hlen hkey hf hm hv hc => exec_rx_of_accept hlen hkey hf.symm (validateFrame_accept hm hv hc)

/-! ## The multiplexer with the cipher's outcome as an input -/

/-- Past the size test, the multiplexer ends at key setup whatever the checks of the frame give (60_exceptions R164). -/
theorem checks_of_malformed_key {k : Checks} (hsize : k.sizeOk = true) (hcipher : k.cipherOk = false) :
    k.status = .cipherFail ∧ k.diag = .keySetup := by
  simp [Checks.status, Checks.diag, Checks.accept, hsize, hcipher]

theorem exec_rx_of_short (hlen : len.toNat < 16) (d : Block) (s : State) :
    exec (.rx len d) s = .next { s with responses := s.responses ++ [{ status := .reject, diag := .size }] } := by
  refine exec_of_response nofun ?_
  rw [answerOf, rxResponse, frameOperand_of_lt hlen]
  rfl

/-- Settles O53: RX and the multiplexer end at the same step: size, key setup, or validation of the decrypted bytes. -/
theorem rxAgreesWithMultiplexer : Obligations.RxAgreesWithMultiplexer := by
  intro s len d
  generalize hp : cbc1Decrypt s.cfg (keyExpansion 8 14 s.cfg.key) d = p
  rcases Nat.lt_or_ge len.toNat 16 with hlen | hlen
  · rw [decide_eq_false (Nat.not_le.2 hlen)]
    obtain ⟨hstatus, hdiag⟩ := checks_of_short (c := frameChecks s.cfg false (decide (s.cfg.key.length = 32)) p) rfl
    exact ⟨_, exec_rx_of_short hlen d s, hstatus.symm, hdiag.symm, fun _ => rfl⟩
  rw [decide_eq_true hlen]
  by_cases hkey : s.cfg.key.length = 32
  · rw [decide_eq_true hkey]
    cases hv : validateFrame s.cfg p with
    | reject step =>
      obtain ⟨hstatus, hdiag⟩ := frameChecks_of_reject hv
      exact ⟨_, exec_rx_of_reject hlen hkey hp hv, hstatus.symm, hdiag.symm, fun _ => rfl⟩
    | accept x =>
      obtain ⟨-, hstatus, hdiag⟩ := frameChecks_of_accept hv
      exact ⟨_, exec_rx_of_accept hlen hkey hp hv, hstatus.symm, hdiag.symm, fun h => absurd rfl h⟩
  · rw [decide_eq_false hkey]
    obtain ⟨hstatus, hdiag⟩ := checks_of_malformed_key (k := frameChecks s.cfg true false p) rfl rfl
    exact ⟨_, exec_buffer_of_malformed_key hkey d hlen (by simp), hstatus.symm, hdiag.symm, fun _ => rfl⟩

/-! ## A link -/

/-- Settles O57: decryption gives the built frame back, which validation accepts with the operands. -/
theorem linkRoundTrip : Obligations.LinkRoundTrip := by
  intro sender receiver c l r q hcfg hkey
  have hvalid : validateFrame receiver.cfg (buildFrame receiver.cfg c l r q) = _ :=
    (parseFrame_of_le (by decide)).symm.trans (parseFrame_buildFrame receiver.cfg c l r q)
  have hplain : cbc1Decrypt receiver.cfg (keyExpansion aesNk aesNr receiver.cfg.key)
      (cbc1Encrypt sender.cfg (keyExpansion aesNk aesNr sender.cfg.key) (buildFrame sender.cfg c l r q)) =
      buildFrame receiver.cfg c l r q := by
    rw [hcfg, cbc1Decrypt_cbc1Encrypt]
  exact ⟨_, exec_tx_of_key hkey c l r q, exec_rx_of_accept (by decide) (hcfg ▸ hkey) hplain hvalid⟩

end Sys2Proof.Machine
end

section
/-!
PROOFS. Exceptions (60_exceptions R160 to R174): no step stops, every request is answered once, and a block with nothing at its port
stays as it is; a short buffer is rejected before anything else, a failed response carries no result, and an absent field reads as zero
on pins.
-/

namespace Sys2Proof.Machine

/-! ## Every step goes on (R160, R174) -/

/-- No step stops (R160). -/
theorem step_goesOn (s : State) : s.GoesOn := by
  obtain ⟨v, rest, -, hs⟩ | ⟨rest, -, hs⟩ | ⟨b, rest, -, -, hs⟩ | ⟨-, -, hs⟩ := step_cases s
  case inl => exact ⟨_, hs.trans (exec_eq _ _)⟩
  case inr.inl => exact ⟨_, hs⟩
  case inr.inr.inl => exact ⟨_, hs.trans (exec_eq _ _)⟩
  case inr.inr.inr => exact ⟨_, hs⟩

/-- Settles O5: no step stops, and the step of a request adds the response of its operation. -/
theorem everyRequestHasExactlyOneResponse : Obligations.EveryRequestHasExactlyOneResponse := by
  refine ⟨step_goesOn, fun s v rest hport => ?_⟩
  obtain ⟨t, r, hstep, -, -, -, htport, hresponses, -⟩ := step_request_answers hport
  exact ⟨t, r, hstep, hresponses, htport⟩

/-- Settles O3: at an empty port a step passes a command byte, or is idle. -/
theorem nothingElseHappensToTheBlock : Obligations.NothingElseHappensToTheBlock := by
  intro s hport
  cases hbytes : s.commandBytes with
  | nil => exact ⟨s, step_idle hport hbytes, rfl, rfl, hport, rfl, fun _ => rfl⟩
  | cons b rest =>
    have hpass := (step_commandByte hport hbytes).trans (exec_of_encode_commandByte (encode_commandRow b) _)
    exact ⟨_, hpass, rfl, rfl, hport, rfl, nofun⟩

/-! ## A short buffer (R163) -/

section ShortBuffer
variable {len : Byte} (hlen : len.toNat < 16) (data : Block) (s : State)
include hlen

theorem exec_encrypt_of_short :
    exec (.encrypt len data) s = .next { s with responses := s.responses ++ [{ status := .reject, diag := .size }] } := by
  refine exec_of_response nofun ?_
  rw [answerOf, encryptResponse, frameOperand_of_lt hlen]
  rfl

theorem exec_decrypt_of_short :
    exec (.decrypt len data) s = .next { s with responses := s.responses ++ [{ status := .reject, diag := .size }] } := by
  refine exec_of_response nofun ?_
  rw [answerOf, decryptResponse, frameOperand_of_lt hlen]
  rfl

end ShortBuffer

/-- Settles O47: a short buffer has no operand, so none of the four operations gets past the size test. -/
theorem shortBufferIsRejectedBeforeCryptography : Obligations.ShortBufferIsRejectedBeforeCryptography := by
  intro s len data hlen i hi
  simp only [List.mem_cons, List.not_mem_nil, or_false] at hi
  rcases hi with rfl | rfl | rfl | rfl
  · exact exec_parse_of_reject (parseFrame_of_lt hlen)
  · exact exec_encrypt_of_short hlen data s
  · exact exec_decrypt_of_short hlen data s
  · exact exec_rx_of_short hlen data s

/-! ## A failed response (R166, R170) -/

/-- The response an instruction adds is the one it gives. -/
theorem answerOf_of_exec {i : Instr} {s t : State} {r : Response} (h : exec i s = .next t)
    (hr : t.responses = s.responses ++ [r]) : answerOf s.cfg s.seq i = .response r := by
  rw [exec_eq] at h
  cases h
  cases ho : answerOf s.cfg s.seq i with
  | response r' => simpa [ho] using hr
  | command e => simp [ho] at hr

/-- Without OK no field is valid but the `seq` of SEND (30_encoding R69). -/
theorem allowedFields_of_ne_ok (i : Instr) {st : Status} (hst : st ≠ .ok) :
    allowedFields i st = { noFields with seq := (allowedFields i st).seq } := by
  cases st with
  | ok => exact absurd rfl hst
  | reject => cases i <;> rfl
  | cipherFail => cases i <;> rfl

theorem allowedFields_seq_of_ne_ok {i : Instr} (hi : ∀ c l q, i ≠ .send c l q) {st : Status} (hst : st ≠ .ok) :
    (allowedFields i st).seq = false := by
  cases st with
  | ok => exact absurd rfl hst
  | reject => cases i <;> rfl
  | cipherFail =>
    cases i with
    | send c l q => exact absurd rfl (hi c l q)
    | _ => rfl

/-- A response with no field but perhaps `seq`. -/
theorem Response.fields_eq_seq_iff {r : Response} {q : Bool} :
    r.fields = { noFields with seq := q } ↔
      r.crc = none ∧ r.cmd = none ∧ r.left = none ∧ r.right = none ∧ r.seq.isSome = q ∧ r.rsv = none ∧ r.out = none := by
  simp [Response.fields, noFields]

/-- Settles O59: the response has the fields that R69 allows without OK, and an instruction other than SEND adds its response only. -/
theorem failureCarriesNoResultAndWritesNoState : Obligations.FailureCarriesNoResultAndWritesNoState := by
  intro i s t r h hr hst
  have hanswer := answerOf_of_exec h hr
  obtain ⟨-, hfields⟩ : (Output.response r).answers i := hanswer ▸ answerOf_answers s.cfg s.seq i
  rw [allowedFields_of_ne_ok i hst, Response.fields_eq_seq_iff] at hfields
  obtain ⟨hcrc, hcmd, hleft, hright, hseq, hrsv, hout⟩ := hfields
  refine ⟨hcrc, hcmd, hleft, hright, hrsv, hout, fun hi => ⟨?_, ?_⟩⟩
  · rw [allowedFields_seq_of_ne_ok hi hst] at hseq
    simpa using hseq
  · rw [exec_of_response hi hanswer] at h
    cases h
    rfl

/-! ## The response on pins (R166, 30_encoding R69) -/

/-- `rsv[8j+7:8j]` is byte `j` of the three reserved bytes. -/
theorem reservedBits_byte (v : Vector Byte 3) {j : Nat} (hj : j < 3) :
    (reservedBits v).extractLsb' (8 * j) 8 = v[j] := by
  match j, hj with
  | 0, _ => exact extractLsb'_append_low _ _
  | 1, _ => exact (extractLsb'_append_high _ v[0] 0 8).trans (extractLsb'_append_low _ v[1])
  | 2, _ =>
    calc (reservedBits v).extractLsb' 16 8
      _ = (v[2] ++ v[1]).extractLsb' (8 + 0) 8 := extractLsb'_append_high _ v[0] 8 8
      _ = v[2].extractLsb' 0 8 := extractLsb'_append_high _ v[1] 0 8
      _ = v[2] := BitVec.extractLsb'_eq_self

/-- `out[8i+7:8i]` is byte `i`: a buffer's bits, read as a buffer, are the buffer. -/
theorem blockBits_byte (b : Block) {i : Nat} (hi : i < 16) : (blockBits b).extractLsb' (8 * i) 8 = b[i] :=
  calc (blockBits b).extractLsb' (8 * i) 8
    _ = (blockOfBits (blockBits b))[i] := by rw [blockOfBits, Vector.getElem_ofFn]
    _ = b[i] := by rw [blockOfBits_blockBits]

/-- Settles O60: each pin is made of its own field alone, and the bits of the two buffers are their bytes. -/
theorem fieldsReadOnPins : Obligations.FieldsReadOnPins := by
  intro r
  have hrsv (v) (h : r.rsv = some v) : r.pins.rsv = reservedBits v := by simp [Response.pins, h]
  have hout (b) (h : r.out = some b) : r.pins.out = blockBits b := by simp [Response.pins, h]
  refine ⟨⟨rfl, rfl⟩, ?_, ?_, ?_, ?_, ?_, ?_, ?_, ?_, ?_, ?_, ?_, fun v h j hj => hrsv v h ▸ reservedBits_byte v hj,
    ?_, fun b h i hi => hout b h ▸ blockBits_byte b hi⟩ <;>
    simp +contextual [Response.pins]

end Sys2Proof.Machine
end

section
/-!
PROOFS. Reset and hazards (70_reset R180 to R185): the reset event clears `SEQ` and does nothing else, and a receiver with the sender's
key and IV gets the sender's frame back, so another magic, version or checksum order meets the check that holds that constant.
-/

namespace Sys2Proof.Machine

/-! ## The reset event (R180) -/

/-- Settles O2: the input is consumed and `SEQ` cleared. -/
theorem resetEventOnlyClearsSequenceCounter : Obligations.ResetEventOnlyClearsSequenceCounter := by
  intro s rest hport
  rw [step_reset hport, State.consume, hport]
  rfl

/-! ## A built frame under another configuration (R185) -/

/-- A field that does not read the same in both orders reads differently in any two. -/
theorem checksumValue_ne_of_order_ne {o o' : CrcOrder} (ho : o' ≠ o) {b : Quad} (hb : fromLe32 b ≠ fromBe32 b) :
    checksumValue o' b ≠ checksumValue o b := by
  cases o <;> cases o'
  case le.le | be.be => exact absurd rfl ho
  case le.be => exact hb.symm
  case be.le => exact hb

section OtherConfiguration
variable (cfg : Config) (c l r q : Byte)

theorem validateFrame_buildFrame_of_other_magic {m : Quad} (hm : m ≠ cfg.magic) :
    validateFrame { cfg with magic := m } (buildFrame cfg c l r q) = .reject .magic :=
  validateFrame_reject_magic (by simpa using hm.symm)

theorem validateFrame_buildFrame_of_other_version {v : Byte} (hv : v ≠ cfg.version) :
    validateFrame { cfg with version := v } (buildFrame cfg c l r q) = .reject .version :=
  validateFrame_reject_version (by simp) (by simpa using hv.symm)

/-- The checksum reads as the right one in the sender's order, so not in the other. -/
theorem validateFrame_buildFrame_of_other_order {o : CrcOrder} (ho : o ≠ cfg.crcOrder)
    (hfield : fromLe32 (checksumField (buildFrame cfg c l r q)) ≠ fromBe32 (checksumField (buildFrame cfg c l r q))) :
    validateFrame { cfg with crcOrder := o } (buildFrame cfg c l r q) = .reject .checksum := by
  refine validateFrame_reject_checksum (by simp) (by simp) ?_
  rw [← storedChecksum_buildFrame cfg c l r q]
  exact checksumValue_ne_of_order_ne ho hfield

end OtherConfiguration

/-! ## A link between two configurations -/

/-- The CBC step reads the key and the IV only, so a receiver with the sender's decrypts to what the sender encrypted. -/
theorem cbc1Decrypt_cbc1Encrypt_of_key_iv {a b : Config} (hkey : b.key = a.key) (hiv : b.iv = a.iv) (p : Block) :
    cbc1Decrypt b (keyExpansion aesNk aesNr b.key) (cbc1Encrypt a (keyExpansion aesNk aesNr a.key) p) = p := by
  rw [hkey, cbc1Decrypt, hiv]
  exact cbc1Decrypt_cbc1Encrypt a _ p

/-- Settles O58: the receiver has the sender's frame back, and rejects it at the check of the constant that differs. -/
theorem receiverOfOtherConfigurationRejects : Obligations.ReceiverOfOtherConfigurationRejects := by
  intro sender receiver c l r q hkey hother
  obtain ⟨hsameKey, hsameIv, d, hreject⟩ : receiver.cfg.key = sender.cfg.key ∧ receiver.cfg.iv = sender.cfg.iv ∧
      ∃ d, validateFrame receiver.cfg (buildFrame sender.cfg c l r q) = .reject d := by
    obtain ⟨m, hm, hcfg⟩ | ⟨v, hv, hcfg⟩ | ⟨o, ho, hcfg, hfield⟩ := hother <;> rw [hcfg]
    · exact ⟨rfl, rfl, _, validateFrame_buildFrame_of_other_magic _ c l r q hm⟩
    · exact ⟨rfl, rfl, _, validateFrame_buildFrame_of_other_version _ c l r q hv⟩
    · exact ⟨rfl, rfl, _, validateFrame_buildFrame_of_other_order _ c l r q ho hfield⟩
  have hplain := cbc1Decrypt_cbc1Encrypt_of_key_iv hsameKey hsameIv (buildFrame sender.cfg c l r q)
  exact ⟨_, _, exec_tx_of_key hkey c l r q,
    exec_rx_of_reject (by decide) (hsameKey ▸ hkey) hplain hreject, rfl⟩

end Sys2Proof.Machine
end
